-- ==== Sys2Proof/Word.lean ====
section
/-! DEFINITION. The word types of the block: every register and bus data word is 32 bits (R7, R21), a captured
duration is 16 bits (R7). -/

namespace Sys2Proof

/-- A register or bus data word (R7: "register width ... 32 bits"). -/
abbrev Word := BitVec 32

/-- A captured duration, a threshold or a frame field of 16 bits (R7, R89). -/
abbrev Half := BitVec 16

end Sys2Proof
end

