-- ==== Sys2Proof/Config.lean ====
section
/-! DEFINITION. What an implementation fixes (the OPEN parameters of R7) and the one free value of the model: the pin
levels of a tick that no listed input gives. -/

namespace Sys2Proof

/-- The OPEN parameters of R7. They are plain data in the state, constant along a run, so that a statement about every
state is a statement about every choice of them (Log 1). -/
structure Params where
  /-- Bus address of instance 0's register bank (BASE). -/
  base      : Nat
  /-- Number of engine instances (N_INST). -/
  nInst     : Nat
  /-- Number of capture channels (N_CHAN). -/
  nChan     : Nat
  /-- Number of pins the selector can name (N_PINS). -/
  nPins     : Nat
  /-- The pin numbers a CONFIG accepts (VALID_PINS). -/
  validPins : List Nat
  /-- Samples one capture buffer holds (CAP_DEPTH). -/
  capDepth  : Nat
  deriving DecidableEq, Repr

/-- The ranges of R7: BASE a multiple of 0x200, 1..8 instances, 1..8 channels, 1..64 pins, valid pins below N_PINS,
a depth of 41..64. -/
def Params.wf (p : Params) : Bool :=
  decide (p.base % 0x200 = 0) && decide (1 ≤ p.nInst ∧ p.nInst ≤ 8) && decide (1 ≤ p.nChan ∧ p.nChan ≤ 8) &&
  decide (1 ≤ p.nPins ∧ p.nPins ≤ 64) && p.validPins.all (fun q => decide (q < p.nPins)) &&
  decide (41 ≤ p.capDepth ∧ p.capDepth ≤ 64)

/-- The test values of R7, with the two instances of 95_test_vectors.md section 2; BASE = 0 is the model's choice.
DESIGN CHOICE (Log 1). -/
def Params.test : Params where
  base := 0
  nInst := 2
  nChan := 8
  nPins := 40
  validPins := List.range 40
  capDepth := 64

/-- Samples needed to decode: one marker and 40 bits (R7). -/
abbrev Config.minSamples : Nat := 41

/-- Attempts per READ (R7 MAX_ATTEMPTS). -/
abbrev Config.maxAttempts : Nat := 3

/-- FREE VALUE (R11, 93_implementation_defined.md I11): the level of every pin in tick number `n`, when the state lists
no input for it. No body: nothing can be proved about a value of it (Log 4). -/
opaque Config.freePins : Nat → BitVec 64

end Sys2Proof
end

