-- ==== Sys2Proof/Syntax.lean ====
section
/-! DEFINITION. The host bus operations (30_encoding.md): one constructor of `Instr` per row of spec/opcode_table.json,
the bus access they travel in, the register names of R21, and the two formats (CMD, BUS) in which the table writes an
operation. -/

namespace Sys2Proof

/-- The index of an engine instance (R251). At most eight exist (R7); `Params.nInst` says how many do. -/
abbrev EngineId := Fin 8

/-- The direction of a bus access. -/
inductive Dir
  | read
  | write
  deriving DecidableEq, Repr

/-- The width of a bus access; only 32 bits is legal (R61). -/
inductive Width
  | w8
  | w16
  | w32
  deriving DecidableEq, Repr

/-- One host bus access (R57, R60): direction, width, byte address and write data (ignored by a read). -/
structure Access where
  dir   : Dir
  width : Width
  addr  : Nat
  data  : Word
  deriving DecidableEq, Repr

/-- The registers of one instance's bank (R21). -/
inductive Reg
  | ctrl | cfg | cmd | status | attlog | resHum | resTemp | resRaw | resCsum
  | tSettle | tLow | tRel | tResp | tRxto | tIdle | tRetry | bitThr
  | capCount | capWdata | act
  | capData (k : Fin 64)
  deriving DecidableEq, Repr

/-- The operations, one constructor per row of spec/opcode_table.json. `e` is the instance addressed; `d` is the word
written. -/
inductive Instr
  /-- NOP, R101. -/
  | nop (e : EngineId)
  /-- READ, R106. -/
  | read (e : EngineId)
  /-- TRANSACT, R107. -/
  | transact (e : EngineId)
  /-- DECODE, R105. -/
  | decode (e : EngineId)
  /-- CONFIG, R102. -/
  | config (e : EngineId)
  /-- UNCONFIG, R103. -/
  | unconfig (e : EngineId)
  /-- CAPCLR, R104. -/
  | capclr (e : EngineId)
  /-- RESERVED_CMD_7: code 7 with MBZ zero, R87. -/
  | reservedCmd7 (e : EngineId)
  /-- RESERVED_CMD_8_F: codes 8 to 15 with MBZ zero, `low` the three low code bits, R87. -/
  | reservedCmd8F (e : EngineId) (low : BitVec 3)
  /-- RESERVED_CMD_MBZ: MBZ not zero, any code, R87. -/
  | reservedCmdMbz (e : EngineId) (mbz : BitVec 28) (code : BitVec 4)
  /-- CMD_WRITE: any word written to CMD, R100. -/
  | cmdWrite (e : EngineId) (d : Word)
  /-- WR_CTRL, R108. -/
  | wrCtrl (e : EngineId) (d : Word)
  /-- WR_CFG, R108. -/
  | wrCfg (e : EngineId) (d : Word)
  /-- WR_T_SETTLE, R108. -/
  | wrTSettle (e : EngineId) (d : Word)
  /-- WR_T_LOW, R108. -/
  | wrTLow (e : EngineId) (d : Word)
  /-- WR_T_REL, R108. -/
  | wrTRel (e : EngineId) (d : Word)
  /-- WR_T_RESP, R108. -/
  | wrTResp (e : EngineId) (d : Word)
  /-- WR_T_RXTO, R108. -/
  | wrTRxto (e : EngineId) (d : Word)
  /-- WR_T_IDLE, R108. -/
  | wrTIdle (e : EngineId) (d : Word)
  /-- WR_T_RETRY, R108. -/
  | wrTRetry (e : EngineId) (d : Word)
  /-- WR_BIT_THR, R108. -/
  | wrBitThr (e : EngineId) (d : Word)
  /-- STATUS_W1C, R109. -/
  | statusW1c (e : EngineId) (d : Word)
  /-- CAP_WDATA_WRITE, R110. -/
  | capWdataWrite (e : EngineId) (d : Word)
  /-- RO_WRITE_ATTLOG, R112. -/
  | roWriteAttlog (e : EngineId) (d : Word)
  /-- RO_WRITE_RES_HUM, R112. -/
  | roWriteResHum (e : EngineId) (d : Word)
  /-- RO_WRITE_RES_TEMP, R112. -/
  | roWriteResTemp (e : EngineId) (d : Word)
  /-- RO_WRITE_RES_RAW, R112. -/
  | roWriteResRaw (e : EngineId) (d : Word)
  /-- RO_WRITE_RES_CSUM, R112. -/
  | roWriteResCsum (e : EngineId) (d : Word)
  /-- RO_WRITE_CAP_COUNT, R112. -/
  | roWriteCapCount (e : EngineId) (d : Word)
  /-- RO_WRITE_ACT, R112. -/
  | roWriteAct (e : EngineId) (d : Word)
  /-- RO_WRITE_CAP_DATA: the slot `k` of the CAP_DATA window, k < CAP_DEPTH, R112. -/
  | roWriteCapData (e : EngineId) (k : Fin 64) (d : Word)
  /-- REG_READ: a read at instance offset `off`, a multiple of 4, R111. -/
  | regRead (e : EngineId) (off : BitVec 9)
  /-- RESERVED_WRITE: a write at a reserved offset, R63. -/
  | reservedWrite (e : EngineId) (off : BitVec 9) (d : Word)
  /-- SUBWORD_OR_MISALIGNED: an access that is not 32-bit or not 4-byte aligned, R61. -/
  | subwordOrMisaligned (a : Access)
  deriving DecidableEq, Repr

/-- An operation as the opcode table writes it: a command word of the CMD format (written to the CMD register of
instance `e`, R80), or a bus access of the BUS format (R84). DESIGN CHOICE (Log 6): both forms of a command word exist
because the table has both, the row of its own and CMD_WRITE. -/
inductive Code
  | cmd (e : EngineId) (w : Word)
  | bus (a : Access)
  deriving DecidableEq, Repr

end Sys2Proof
end

