-- ==== Sys2Proof/Machine/Address.lean ====
section
/-! DEFINITION. What the bus looks at in an access before the offset table: which instances and addresses exist (R60), which
accesses are illegal (R61), which offsets are reserved (R63). The operand checks and the decoder both rest on it. -/

namespace Sys2Proof

/-- The instance exists (R251). -/
def engineExists (p : Params) (e : EngineId) : Bool := decide (e.val < p.nInst)

/-- R21, R63: the reserved offsets of a bank, among the multiples of 4: 0x050-0x0FC and the CAP_DATA slots at or beyond
CAP_DEPTH. -/
def offsetReserved (p : Params) (off : BitVec 9) : Bool :=
  decide (off.toNat % 4 = 0) &&
  decide ((0x050 ≤ off.toNat ∧ off.toNat < 0x100) ∨ 0x100 + 4 * p.capDepth ≤ off.toNat)

/-- R60: the address lies in the block, `BASE` to `BASE + N_INST*0x200 - 1`. -/
def addressInBlock (p : Params) (a : Nat) : Bool :=
  decide (p.base ≤ a) && decide (a < p.base + p.nInst * 0x200)

/-- R61: an access that the bus answers with an error. -/
def accessIllegal (a : Access) : Bool :=
  decide (a.width ≠ Width.w32) || decide (a.addr % 4 ≠ 0)

end Sys2Proof
end

