-- ==== Sys2Proof/WellFormed.lean ====
section
/-! DEFINITION. Which terms of `Instr` name an operation that a block with the given parameters has: the checks on the
operand fields that the types do not make. -/

namespace Sys2Proof

/-- The operand checks of each operation. -/
def wellFormed (p : Params) : Instr → Bool
  | .nop e | .read e | .transact e | .decode e | .config e | .unconfig e | .capclr e
  | .reservedCmd7 e | .reservedCmd8F e _ | .cmdWrite e _
  | .wrCtrl e _ | .wrCfg e _ | .wrTSettle e _ | .wrTLow e _ | .wrTRel e _ | .wrTResp e _ | .wrTRxto e _
  | .wrTIdle e _ | .wrTRetry e _ | .wrBitThr e _ | .statusW1c e _ | .capWdataWrite e _
  | .roWriteAttlog e _ | .roWriteResHum e _ | .roWriteResTemp e _ | .roWriteResRaw e _ | .roWriteResCsum e _
  | .roWriteCapCount e _ | .roWriteAct e _ => engineExists p e
  | .reservedCmdMbz e mbz _ => engineExists p e && decide (mbz ≠ 0)
  | .roWriteCapData e k _ => engineExists p e && decide (k.val < p.capDepth)
  | .regRead e off => engineExists p e && decide (off.toNat % 4 = 0)
  | .reservedWrite e off _ => engineExists p e && offsetReserved p off
  | .subwordOrMisaligned a => addressInBlock p a.addr && accessIllegal a

end Sys2Proof
end

