-- ==== Sys2Proof/Decode.lean ====
section
/-! DEFINITION. The decoder, total on every operation the host can issue, and after it the encoder, both written from
the offset table of R21 and the command codes of R86.

R88: "A decoder tells the operation from the address and direction alone (rule R84), then for CMD writes from the word
(rule R86)." -/

namespace Sys2Proof

/-- Why an operation is none of the block's. -/
inductive Reject
  /-- R63: the address, or the instance, is outside `BASE .. BASE + N_INST*0x200 - 1`: the platform's business. -/
  | outsideBlock
  deriving DecidableEq, Repr

/-! ## The offset table of R21 -/

/-- R21: the byte offset of a register in its bank. -/
def Reg.offset : Reg → Nat
  | .ctrl => 0x000
  | .cfg => 0x004
  | .cmd => 0x008
  | .status => 0x00C
  | .attlog => 0x010
  | .resHum => 0x014
  | .resTemp => 0x018
  | .resRaw => 0x01C
  | .resCsum => 0x020
  | .tSettle => 0x024
  | .tLow => 0x028
  | .tRel => 0x02C
  | .tResp => 0x030
  | .tRxto => 0x034
  | .tIdle => 0x038
  | .tRetry => 0x03C
  | .bitThr => 0x040
  | .capCount => 0x044
  | .capWdata => 0x048
  | .act => 0x04C
  | .capData k => 0x100 + 4 * k.val

/-- R21: the registers at fixed offsets. -/
def Reg.fixed : List Reg :=
  [.ctrl, .cfg, .cmd, .status, .attlog, .resHum, .resTemp, .resRaw, .resCsum,
   .tSettle, .tLow, .tRel, .tResp, .tRxto, .tIdle, .tRetry, .bitThr, .capCount, .capWdata, .act]

/-- R21: the CAP_DATA slot at an offset, if the offset is one. -/
def Reg.capSlot (p : Params) (off : Nat) : Option Reg :=
  if h : 0x100 ≤ off ∧ off < 0x100 + 4 * p.capDepth ∧ off % 4 = 0 ∧ off < 0x200 then
    some (.capData ⟨(off - 0x100) / 4, by omega⟩)
  else none

/-- R21, R84: the register at an offset; none for a reserved offset (R63). -/
def Reg.ofOffset (p : Params) (off : Nat) : Option Reg :=
  match Reg.fixed.find? (fun r => r.offset == off) with
  | some r => some r
  | none => Reg.capSlot p off

/-! ## The decoder -/

/-- R80, R86, R87: the operation of a command word. Every word is one of the seven commands or reserved. -/
def decodeCommand (e : EngineId) (w : Word) : Instr :=
  let mbz := w.extractLsb' 4 28
  let code := w.extractLsb' 0 4
  if mbz ≠ 0 then .reservedCmdMbz e mbz code
  else match code.toNat with
    | 0x0 => .nop e
    | 0x1 => .read e
    | 0x2 => .transact e
    | 0x3 => .decode e
    | 0x4 => .config e
    | 0x5 => .unconfig e
    | 0x6 => .capclr e
    | 0x7 => .reservedCmd7 e
    | _ => .reservedCmd8F e (code.extractLsb' 0 3)

/-- R84: the operation of a write to a register. -/
def writeOf (e : EngineId) (d : Word) : Reg → Instr
  | .ctrl => .wrCtrl e d
  | .cfg => .wrCfg e d
  | .cmd => .cmdWrite e d
  | .status => .statusW1c e d
  | .attlog => .roWriteAttlog e d
  | .resHum => .roWriteResHum e d
  | .resTemp => .roWriteResTemp e d
  | .resRaw => .roWriteResRaw e d
  | .resCsum => .roWriteResCsum e d
  | .tSettle => .wrTSettle e d
  | .tLow => .wrTLow e d
  | .tRel => .wrTRel e d
  | .tResp => .wrTResp e d
  | .tRxto => .wrTRxto e d
  | .tIdle => .wrTIdle e d
  | .tRetry => .wrTRetry e d
  | .bitThr => .wrBitThr e d
  | .capCount => .roWriteCapCount e d
  | .capWdata => .capWdataWrite e d
  | .act => .roWriteAct e d
  | .capData k => .roWriteCapData e k d

/-- R84: a legal access, by instance, then by offset and direction. -/
def decodeAt (p : Params) (e : EngineId) (off : Nat) (dir : Dir) (d : Word) : Instr :=
  match dir with
  | .read => .regRead e (BitVec.ofNat 9 off)
  | .write =>
    match Reg.ofOffset p off with
    | some r => writeOf e d r
    | none => .reservedWrite e (BitVec.ofNat 9 off) d

/-- R60: "selects instance floor((addr - BASE) / 0x200) and offset (addr - BASE) mod 0x200". -/
def selectEngine (p : Params) (addr : Nat) : EngineId :=
  Fin.ofNat 8 ((addr - p.base) / 0x200)

/-- R60, R61, R84: the operation of a bus access. The range is looked at first, then width and alignment (Log 10). -/
def decodeBus (p : Params) (a : Access) : Except Reject Instr :=
  if addressInBlock p a.addr then
    if accessIllegal a then .ok (.subwordOrMisaligned a)
    else .ok (decodeAt p (selectEngine p a.addr) ((a.addr - p.base) % 0x200) a.dir a.data)
  else .error .outsideBlock

/-- The operation of a code in either format of the table. -/
def decode (p : Params) : Code → Except Reject Instr
  | .cmd e w => if engineExists p e then .ok (decodeCommand e w) else .error .outsideBlock
  | .bus a => decodeBus p a

/-! ## The encoder -/

/-- R60: the address of an offset in an instance's bank. -/
def busAddress (p : Params) (e : EngineId) (off : Nat) : Nat := p.base + e.val * 0x200 + off

/-- R91: `WR <reg>, <v>`. -/
def busWrite (p : Params) (e : EngineId) (off : Nat) (d : Word) : Code :=
  .bus { dir := .write, width := .w32, addr := busAddress p e off, data := d }

/-- R91: `RD <reg>`. -/
def busRead (p : Params) (e : EngineId) (off : Nat) : Code :=
  .bus { dir := .read, width := .w32, addr := busAddress p e off, data := 0 }

/-- The code of an operation: the command words of R86 and R87, the offsets of R21. -/
def encode (p : Params) : Instr → Code
  | .nop e => .cmd e 0x0
  | .read e => .cmd e 0x1
  | .transact e => .cmd e 0x2
  | .decode e => .cmd e 0x3
  | .config e => .cmd e 0x4
  | .unconfig e => .cmd e 0x5
  | .capclr e => .cmd e 0x6
  | .reservedCmd7 e => .cmd e 0x7
  | .reservedCmd8F e low => .cmd e ((0#28 ++ (1#1 ++ low) : Word))
  | .reservedCmdMbz e mbz code => .cmd e (mbz ++ code : Word)
  | .cmdWrite e d => busWrite p e Reg.cmd.offset d
  | .wrCtrl e d => busWrite p e Reg.ctrl.offset d
  | .wrCfg e d => busWrite p e Reg.cfg.offset d
  | .wrTSettle e d => busWrite p e Reg.tSettle.offset d
  | .wrTLow e d => busWrite p e Reg.tLow.offset d
  | .wrTRel e d => busWrite p e Reg.tRel.offset d
  | .wrTResp e d => busWrite p e Reg.tResp.offset d
  | .wrTRxto e d => busWrite p e Reg.tRxto.offset d
  | .wrTIdle e d => busWrite p e Reg.tIdle.offset d
  | .wrTRetry e d => busWrite p e Reg.tRetry.offset d
  | .wrBitThr e d => busWrite p e Reg.bitThr.offset d
  | .statusW1c e d => busWrite p e Reg.status.offset d
  | .capWdataWrite e d => busWrite p e Reg.capWdata.offset d
  | .roWriteAttlog e d => busWrite p e Reg.attlog.offset d
  | .roWriteResHum e d => busWrite p e Reg.resHum.offset d
  | .roWriteResTemp e d => busWrite p e Reg.resTemp.offset d
  | .roWriteResRaw e d => busWrite p e Reg.resRaw.offset d
  | .roWriteResCsum e d => busWrite p e Reg.resCsum.offset d
  | .roWriteCapCount e d => busWrite p e Reg.capCount.offset d
  | .roWriteAct e d => busWrite p e Reg.act.offset d
  | .roWriteCapData e k d => busWrite p e (Reg.capData k).offset d
  | .regRead e off => busRead p e off.toNat
  | .reservedWrite e off d => busWrite p e off.toNat d
  | .subwordOrMisaligned a => .bus a

/-! ## The opcode table's numbering -/

/-- The code of an operation whose bits are numbered as spec/opcode_table.json numbers them: 32 bits are a command word
written to instance 0's CMD; fewer are the offset of a write of 0 in instance 0's bank; none (REG_READ has an empty
mask) is a read at offset 0 (Log 6). -/
def tableCode (p : Params) (nbits w : Nat) : Code :=
  if nbits = 0 then busRead p 0 w
  else if nbits < 32 then busWrite p 0 w 0
  else .cmd 0 (BitVec.ofNat 32 w)

/-- What the decoder reads from a table word, under the test parameters (Log 6). -/
def decodeTableWord (nbits w : Nat) : Option Instr :=
  match decode Params.test (tableCode Params.test nbits w) with
  | .ok i => some i
  | .error _ => none

end Sys2Proof
end

