-- ==== Sys2Proof/Machine/State.lean ====
section
/-! DEFINITION. The machine's state, as plain data: every register, flag, counter and table that 10_state.md names, the
ports a step reads or drives, and the reset values of R271. -/

namespace Sys2Proof.Machine

/-- The sequencer phases (R43); code 7 is never entered and has no constructor. -/
inductive Phase
  | idle
  | settle
  | startLow
  | relWait
  | respWait
  | capture
  | retryWait
  deriving DecidableEq, Repr

/-- The error codes (R240); code 7 is never produced and has no constructor. -/
inductive ErrCode
  | none
  | peripheralConfigError
  | noResponse
  | captureTimeout
  | insufficientData
  | checksumError
  | totalFailure
  deriving DecidableEq, Repr

/-- The kind of the command in progress (R46). -/
inductive Mode
  | read
  | transact
  deriving DecidableEq, Repr

/-- The pin drive (R51): output enable, output level, pull-up. -/
structure Gpio where
  oe  : Bool
  out : Bool
  pu  : Bool
  deriving DecidableEq, Repr

/-- The events of the trace (R53). -/
inductive Event
  | gpio (g : Gpio)
  | capStart (c : BitVec 3)
  | capStop (c : BitVec 3)
  | capRelease (c : BitVec 3)
  | attBegin (n : BitVec 2)
  | attEnd (n : BitVec 2) (code : ErrCode)
  | cmdDone (code : ErrCode)
  deriving DecidableEq, Repr

/-- The per-attempt codes (R26). -/
structure AttLog where
  a1 : BitVec 4
  a2 : BitVec 4
  a3 : BitVec 4
  deriving DecidableEq, Repr

/-- A PulseSample (R49, R82). -/
structure Sample where
  high : Half
  low  : Half
  deriving DecidableEq, Repr

/-- A capture buffer (R49). -/
structure CapBuf where
  count   : Nat
  ovf     : Bool
  entries : Vector Sample 64
  deriving DecidableEq, Repr

/-- One engine instance: its stored registers and flags (R22-R38), its hidden state (R43-R48), its pin drive (R51) and
its event trace, oldest first (R53). A field mirrored in a register is stored once (Log 11). -/
structure Engine where
  ctrl      : Word
  cfg       : Word
  busy      : Bool
  done      : Bool
  valid     : Bool
  err       : ErrCode
  tneg      : Bool
  cmderr    : Bool
  werr      : Bool
  attlog    : AttLog
  resHum    : Word
  resTemp   : Word
  resRaw    : Word
  resCsum   : BitVec 8
  tSettle   : Word
  tLow      : Word
  tRel      : Word
  tResp     : Word
  tRxto     : Word
  tIdle     : Word
  tRetry    : Word
  bitThr    : Word
  phase     : Phase
  cnt       : Word
  rx        : Word
  mode      : Mode
  attempt   : BitVec 2
  curLevel  : Bool
  curLen    : Half
  edgeSeen  : Bool
  pendValid : Bool
  pendHigh  : Half
  cfgd      : Bool
  pin       : BitVec 6
  chan      : BitVec 3
  gpio      : Gpio
  trace     : List Event
  deriving DecidableEq, Repr

/-- The ten registers a configuration write stores to (R108). -/
inductive RwReg
  | ctrl | cfg | tSettle | tLow | tRel | tResp | tRxto | tIdle | tRetry | bitThr
  deriving DecidableEq, Repr

/-- What arrives at the block, in the one order of R67: a bus operation, a tick with the level of every pin in it
(R57 `tick`, `pin_in[p]`), or a new level of the reset input (R57 `rst`). -/
inductive Input
  | op (c : Code)
  | tick (pins : BitVec 64)
  | rst (level : Bool)
  deriving DecidableEq, Repr

/-- The state of the block. Of the eight instances, eight channels, 64 pins and 64 entries of a buffer, those below the
parameters' counts exist (Log 2). -/
structure State where
  /-- The OPEN parameters of R7, constant along a run (Log 1). -/
  params    : Params
  /-- The engine instances (R251). -/
  engines   : Vector Engine 8
  /-- The capture buffers, one per channel (R49). -/
  bufs      : Vector CapBuf 8
  /-- chan_owner (R49). -/
  chanOwner : Vector (Option EngineId) 8
  /-- pin_owner (R49). -/
  pinOwner  : Vector (Option EngineId) 64
  /-- The word the last host read returned, on the host bus (R57, R111). -/
  rdata     : Word
  /-- The level of the reset input (R270). -/
  rst       : Bool
  /-- The model's own: what arrives next, first at the head (Log 3). -/
  inputs    : List Input
  /-- The model's own: the ticks so far, the argument of the free pin levels (Log 4). -/
  now       : Nat
  deriving DecidableEq, Repr

/-- Why the machine stops. -/
inductive Fault
  /-- Raised by SUBWORD_OR_MISALIGNED: R61, R243: the bus answers with an error, no state of the block changes, and "a
  model treats it as a fault of the host program". Safe. -/
  | busError
  deriving DecidableEq, Repr

/-- Why an operation has no meaning here. -/
inductive Refusal
  /-- Raised by an arm of `exec` whose operation has no meaning yet. Safe. -/
  | notModelled (mnemonic : String)
  /-- Raised by `step` for an address outside the block: R63: "What it does is the platform's business and not specified
  here"; I10 says refuse. Safe. -/
  | outsideBlock
  deriving DecidableEq, Repr

/-- A buffer after reset (R271). -/
def CapBuf.reset : CapBuf where
  count := 0
  ovf := false
  entries := Vector.replicate 64 ⟨0, 0⟩

/-- An instance after reset (R271). -/
def Engine.reset : Engine where
  ctrl := 0
  cfg := 0
  busy := false
  done := false
  valid := false
  err := .none
  tneg := false
  cmderr := false
  werr := false
  attlog := ⟨0, 0, 0⟩
  resHum := 0
  resTemp := 0
  resRaw := 0
  resCsum := 0
  tSettle := 10000
  tLow := 18000
  tRel := 40
  tResp := 90
  tRxto := 100000
  tIdle := 1000
  tRetry := 2000000
  bitThr := 50
  phase := .idle
  cnt := 0
  rx := 0
  mode := .read
  attempt := 0
  curLevel := false
  curLen := 0
  edgeSeen := false
  pendValid := false
  pendHigh := 0
  cfgd := false
  pin := 0
  chan := 0
  gpio := ⟨false, false, false⟩
  trace := []

/-- The block with given parameters right after reset (R271), with nothing arriving. -/
def State.resetWith (p : Params) : State where
  params := p
  engines := Vector.replicate 8 Engine.reset
  bufs := Vector.replicate 8 CapBuf.reset
  chanOwner := Vector.replicate 8 none
  pinOwner := Vector.replicate 64 none
  rdata := 0
  rst := false
  inputs := []
  now := 0

/-- The machine right after reset, under the test parameters (R7, R271; Log 1). -/
def State.reset : State := State.resetWith Params.test

end Sys2Proof.Machine
end

