-- ==== Sys2Proof/Machine/Operands.lean ====
section
/-! DEFINITION. The operand fields of the words and registers (30_encoding.md R80-R85, the field tables of 10_state.md)
and the arithmetic primitives of R9. Values that are counted or compared are natural numbers; comparisons are "unsigned
comparison[s] of the zero-extended values at 32 bits" (R85). -/

namespace Sys2Proof.Machine

/-! ## Primitives (R9) -/

/-- R9: `sat16(v) = min(v, 0xFFFF)`. -/
def sat16 (n : Nat) : Half := BitVec.ofNat 16 (min n 0xFFFF)

/-- R9: `sat32(v) = min(v, 0xFFFFFFFF)`. -/
def sat32 (n : Nat) : Word := BitVec.ofNat 32 (min n 0xFFFFFFFF)

/-- R9: `max1(v) = max(v, 1)`. -/
def max1 (v : Word) : Nat := max v.toNat 1

/-- Bit `k` of a word. -/
def bitAt (w : Word) (k : Nat) : Bool := w.getLsbD k

/-- Bits 15:0 of a word, zero-extended (T_IDLE, BIT_THR: R36, R38). -/
def low16 (w : Word) : Half := w.extractLsb' 0 16

/-! ## Command word (R80) -/

/-- R80: CODE, bits 3:0. -/
def cmdCode (w : Word) : BitVec 4 := w.extractLsb' 0 4

/-- R80: MBZ, bits 31:4. -/
def cmdMbz (w : Word) : BitVec 28 := w.extractLsb' 4 28

/-- R87: "A command word with CODE in 0x7..0xF, or with MBZ ≠ 0, is reserved." -/
def cmdReserved (w : Word) : Bool := decide (cmdMbz w ≠ 0) || decide (7 ≤ (cmdCode w).toNat)

/-! ## CTRL and CFG (R22, R23) -/

/-- R22: IE, bit 0. -/
def ctrlIE (w : Word) : Bool := bitAt w 0

/-- R23: PIN, bits 5:0. -/
def cfgPin (w : Word) : BitVec 6 := w.extractLsb' 0 6

/-- R23: CHAN, bits 10:8. -/
def cfgChan (w : Word) : BitVec 3 := w.extractLsb' 8 3

/-- R23: PROFILE, bit 16. -/
def cfgProfile (w : Word) : Bool := bitAt w 16

/-- R23: BITPH, bit 17. -/
def cfgBitph (w : Word) : Bool := bitAt w 17

/-! ## Sample word (R82) -/

/-- R82: a sample word's HIGH (15:0) and LOW (31:16). -/
def sampleOfWord (w : Word) : Sample := ⟨w.extractLsb' 0 16, w.extractLsb' 16 16⟩

/-- R42, R82: `{low, high}`. -/
def wordOfSample (q : Sample) : Word := q.low ++ q.high

/-! ## STATUS write word (R83) -/

/-- R83: the DONE bit of a STATUS write. -/
def w1cDone (w : Word) : Bool := bitAt w 1

/-- R83: the CMDERR bit of a STATUS write. -/
def w1cCmderr (w : Word) : Bool := bitAt w 12

/-- R83: the WERR bit of a STATUS write. -/
def w1cWerr (w : Word) : Bool := bitAt w 13

/-! ## Codes -/

/-- R43: the phase codes. -/
def Phase.code : Phase → BitVec 3
  | .idle => 0
  | .settle => 1
  | .startLow => 2
  | .relWait => 3
  | .respWait => 4
  | .capture => 5
  | .retryWait => 6

/-- R240: the error codes. -/
def ErrCode.code : ErrCode → BitVec 3
  | .none => 0
  | .peripheralConfigError => 1
  | .noResponse => 2
  | .captureTimeout => 3
  | .insufficientData => 4
  | .checksumError => 5
  | .totalFailure => 6

/-- R240: an error code as an ATTLOG field, "4 bits, zero-extended". -/
def ErrCode.field (c : ErrCode) : BitVec 4 := c.code.setWidth 4

/-- R26: ATTLOG as a word, A1 in 3:0, A2 in 7:4, A3 in 11:8. -/
def AttLog.word (a : AttLog) : Word := 0#20 ++ (a.a3 ++ (a.a2 ++ a.a1))

/-- R227: "When attempt n (1..3) fails with code e, ATTLOG bits 4n-1 : 4n-4 are set to e. The other fields are
unchanged." There is no attempt 0 in progress (Log 14). -/
def AttLog.record (a : AttLog) (n : BitVec 2) (e : BitVec 4) : AttLog :=
  match n.toNat with
  | 1 => { a with a1 := e }
  | 2 => { a with a2 := e }
  | 3 => { a with a3 := e }
  | _ => a

/-! ## Configuration registers (R108) -/

/-- R108: the writable-field mask. -/
def RwReg.mask : RwReg → Word
  | .ctrl => 0x00000001
  | .cfg => 0x0003073F
  | .tIdle | .bitThr => 0x0000FFFF
  | .tSettle | .tLow | .tRel | .tResp | .tRxto | .tRetry => 0xFFFFFFFF

/-- The stored word of a configuration register. -/
def RwReg.get (x : Engine) : RwReg → Word
  | .ctrl => x.ctrl
  | .cfg => x.cfg
  | .tSettle => x.tSettle
  | .tLow => x.tLow
  | .tRel => x.tRel
  | .tResp => x.tResp
  | .tRxto => x.tRxto
  | .tIdle => x.tIdle
  | .tRetry => x.tRetry
  | .bitThr => x.bitThr

/-- Store a word in a configuration register. -/
def RwReg.set (x : Engine) (r : RwReg) (w : Word) : Engine :=
  match r with
  | .ctrl => { x with ctrl := w }
  | .cfg => { x with cfg := w }
  | .tSettle => { x with tSettle := w }
  | .tLow => { x with tLow := w }
  | .tRel => { x with tRel := w }
  | .tResp => { x with tResp := w }
  | .tRxto => { x with tRxto := w }
  | .tIdle => { x with tIdle := w }
  | .tRetry => { x with tRetry := w }
  | .bitThr => { x with bitThr := w }

end Sys2Proof.Machine
end

