-- ==== Sys2Proof/Machine/Flags.lean ====
section
/-! DEFINITION. The STATUS word (R25, R111), the interrupt line (R52) and the flag updates that the commands share. -/

namespace Sys2Proof.Machine

/-- One flag as a bit. -/
def flagBit (b : Bool) : BitVec 1 := BitVec.ofBool b

/-- R25: OVF, "a view of the owned channel's buf[ch].ovf ... It reads 0 when CFGD = 0". `b` is the owned buffer. -/
def ovfView (x : Engine) (b : CapBuf) : Bool := x.cfgd && b.ovf

/-- R111: `{0^9, PHASE[2:0], 0^2, ATTEMPT[1:0], 0^2, WERR, CMDERR, 0^2, OVF, TNEG, 0, ERR[2:0], CFGD, VALID, DONE,
BUSY}`. -/
def statusWord (x : Engine) (b : CapBuf) : Word :=
  0#9 ++ (x.phase.code ++ (0#2 ++ (x.attempt ++ (0#2 ++ (flagBit x.werr ++ (flagBit x.cmderr ++ (0#2 ++
    (flagBit (ovfView x b) ++ (flagBit x.tneg ++ (0#1 ++ (x.err.code ++ (flagBit x.cfgd ++ (flagBit x.valid ++
      (flagBit x.done ++ flagBit x.busy))))))))))))))

/-- R52: `irq[i] = STATUS.DONE & CTRL.IE`, a level. -/
def irq (x : Engine) : Bool := x.done && ctrlIE x.ctrl

/-- R57: pin_oe[i]. -/
def pinOe (x : Engine) : Bool := x.gpio.oe

/-- R57: pin_out[i]. -/
def pinOut (x : Engine) : Bool := x.gpio.out

/-- R57: pin_pu[i]. -/
def pinPu (x : Engine) : Bool := x.gpio.pu

/-- R100, R241: an ignored command. -/
def flagCmderr (x : Engine) : Engine := { x with cmderr := true }

/-- R108, R110, R241: an ignored configuration or sample write. -/
def flagWerr (x : Engine) : Engine := { x with werr := true }

/-- R100: acceptance of a command other than NOP clears DONE and ERR. -/
def clearDoneErr (x : Engine) : Engine := { x with done := false, err := .none }

/-- R109: the flags whose bit is written as 1 are cleared. -/
def statusClear (w : Word) (x : Engine) : Engine :=
  { x with
    done := x.done && !w1cDone w
    cmderr := x.cmderr && !w1cCmderr w
    werr := x.werr && !w1cWerr w }

end Sys2Proof.Machine
end

