-- ==== Sys2Proof/Machine/Ops.lean ====
section
/-! DEFINITION. The named operations over the state: the instances, the capture buffers, the owner tables, the register
file as the host reads it (R111), and the procedures that the rules share: `emit`, `gpio <-`, `finish` (R113, the
completion record that stands for taking an exception, R246), `clear_results` (R114), `begin_attempt` (R130) and
`attempt_end` (R221). -/

namespace Sys2Proof.Machine

/-! ## Access to the state's parts -/

/-- Instance `e`. -/
def State.eng (s : State) (e : EngineId) : Engine := s.engines[e.val]

/-- Replace instance `e`. -/
def State.setEng (s : State) (e : EngineId) (x : Engine) : State :=
  { s with engines := s.engines.set e.val x }

/-- Update instance `e`. -/
def State.modEng (s : State) (e : EngineId) (f : Engine → Engine) : State := s.setEng e (f (s.eng e))

/-- The capture buffer of channel `c` (R49). -/
def State.buf (s : State) (c : BitVec 3) : CapBuf := s.bufs[c.toNat]'c.isLt

/-- Replace the capture buffer of channel `c`. -/
def State.setBuf (s : State) (c : BitVec 3) (b : CapBuf) : State :=
  { s with bufs := s.bufs.set c.toNat b c.isLt }

/-- chan_owner[c] (R49). -/
def State.chanOwnerOf (s : State) (c : BitVec 3) : Option EngineId := s.chanOwner[c.toNat]'c.isLt

/-- Write chan_owner[c]. -/
def State.setChanOwner (s : State) (c : BitVec 3) (o : Option EngineId) : State :=
  { s with chanOwner := s.chanOwner.set c.toNat o c.isLt }

/-- pin_owner[p] (R49). -/
def State.pinOwnerOf (s : State) (p : BitVec 6) : Option EngineId := s.pinOwner[p.toNat]'p.isLt

/-- Write pin_owner[p]. -/
def State.setPinOwner (s : State) (p : BitVec 6) (o : Option EngineId) : State :=
  { s with pinOwner := s.pinOwner.set p.toNat o p.isLt }

/-- The buffer of the channel latched by instance `e`, `buf[st.chan]`. -/
def State.ownBuf (s : State) (e : EngineId) : CapBuf := s.buf (s.eng e).chan

/-! ## Capture buffers -/

/-- R102, R104, R160: count and ovf to 0; "entries are not erased". -/
def CapBuf.empty (b : CapBuf) : CapBuf := { b with count := 0, ovf := false }

/-- R110, R163: append a sample below CAP_DEPTH, else drop it and set ovf. -/
def CapBuf.push (depth : Nat) (b : CapBuf) (q : Sample) : CapBuf :=
  if b.count < depth then
    { b with entries := b.entries.setIfInBounds b.count q, count := b.count + 1 }
  else { b with ovf := true }

/-- The samples held, `entry[0 .. count-1]`, oldest first. -/
def CapBuf.samples (b : CapBuf) : List Sample := b.entries.toList.take b.count

/-! ## Procedures of one instance -/

/-- R10: `emit E`. -/
def emit (ev : Event) (x : Engine) : Engine := { x with trace := x.trace ++ [ev] }

/-- R10, R51: `gpio <- (oe, out, pu)`; emits GPIO even if the value is unchanged. -/
def driveGpio (g : Gpio) (x : Engine) : Engine := emit (.gpio g) { x with gpio := g }

/-- R51: input with pull-up. -/
def Gpio.inputPullUp : Gpio := ⟨false, false, true⟩

/-- R51: output driving low, pull-up left enabled. -/
def Gpio.driveLow : Gpio := ⟨true, false, true⟩

/-- R51: input, no pull-up. -/
def Gpio.released : Gpio := ⟨false, false, false⟩

/-- R113: `finish(e)` completes the current command: the completion record (R246) and the return to IDLE. -/
def finish (code : ErrCode) (x : Engine) : Engine :=
  emit (.cmdDone code) { x with phase := .idle, busy := false, done := true, err := code }

/-- R114: `clear_results()`. -/
def clearResults (x : Engine) : Engine :=
  { x with resHum := 0, resTemp := 0, resRaw := 0, resCsum := 0, valid := false, tneg := false }

/-- R130: `begin_attempt(n)`. -/
def beginAttempt (n : BitVec 2) (x : Engine) : Engine :=
  let x := clearResults { x with attempt := n }
  let x := driveGpio Gpio.inputPullUp (emit (.attBegin n) x)
  { x with phase := .settle, cnt := 0 }

/-- R221: `attempt_end(code)`: success and a TRANSACT complete the command; a READ waits and retries until its third
failed attempt. -/
def attemptEnd (code : ErrCode) (x : Engine) : Engine :=
  let n := x.attempt
  let x := emit (.attEnd n code) x
  if code = .none then finish .none x
  else
    let x := { x with attlog := x.attlog.record n code.field }
    if x.mode = .transact then finish code x
    else if n.toNat < Config.maxAttempts then { x with phase := .retryWait, cnt := 0 }
    else finish .totalFailure x

/-! ## Claims (R49, R102, R103) -/

/-- R102, R103: drop the instance's claim, if it has one. -/
def dropClaim (e : EngineId) (s : State) : State :=
  if (s.eng e).cfgd then
    ((s.setChanOwner (s.eng e).chan none).setPinOwner (s.eng e).pin none).modEng e (fun x => { x with cfgd := false })
  else s

/-- R102: `p < N_PINS and p in VALID_PINS and c < N_CHAN and chan_owner[c] == none and pin_owner[p] == none`. -/
def claimAllowed (s : State) (p : BitVec 6) (c : BitVec 3) : Bool :=
  decide (p.toNat < s.params.nPins) && decide (p.toNat ∈ s.params.validPins) && decide (c.toNat < s.params.nChan) &&
  decide (s.chanOwnerOf c = none) && decide (s.pinOwnerOf p = none)

/-- R102: the claim itself: owner tables, the latched pin and channel, CFGD, the emptied buffer. -/
def takeClaim (e : EngineId) (p : BitVec 6) (c : BitVec 3) (s : State) : State :=
  let s := (s.setChanOwner c (some e)).setPinOwner p (some e)
  let s := s.modEng e (fun x => { x with pin := p, chan := c, cfgd := true })
  s.setBuf c (s.buf c).empty

/-! ## Registers as the host reads them (R111) -/

/-- R39: CAP_COUNT, "reads 0 when STATUS.CFGD = 0"; `b` is the owned buffer. -/
def capCountView (x : Engine) (b : CapBuf) : Word :=
  if x.cfgd then (BitVec.ofNat 16 b.count).setWidth 32 else 0

/-- R41: ACT, "reads 0 when STATUS.CFGD = 0". -/
def actView (x : Engine) : Word :=
  if x.cfgd then 0#21 ++ (x.chan ++ (0#2 ++ x.pin)) else 0

/-- R42: CAP_DATA[k], `{low, high}` of a held sample, otherwise 0. -/
def capDataView (x : Engine) (b : CapBuf) (k : Fin 64) : Word :=
  if x.cfgd && decide (k.val < b.count) then wordOfSample b.entries[k.val] else 0

/-- R111: the value a read of a register returns; reserved bits read 0 (R21). -/
def regValue (s : State) (e : EngineId) (r : Reg) : Word :=
  let x := s.eng e
  let b := s.ownBuf e
  match r with
  | .ctrl => x.ctrl &&& RwReg.ctrl.mask
  | .cfg => x.cfg &&& RwReg.cfg.mask
  | .cmd => 0
  | .status => statusWord x b
  | .attlog => x.attlog.word
  | .resHum => x.resHum
  | .resTemp => x.resTemp
  | .resRaw => x.resRaw
  | .resCsum => x.resCsum.setWidth 32
  | .tSettle => x.tSettle
  | .tLow => x.tLow
  | .tRel => x.tRel
  | .tResp => x.tResp
  | .tRxto => x.tRxto
  | .tIdle => x.tIdle &&& RwReg.tIdle.mask
  | .tRetry => x.tRetry
  | .bitThr => x.bitThr &&& RwReg.bitThr.mask
  | .capCount => capCountView x b
  | .capWdata => 0
  | .act => actView x
  | .capData k => capDataView x b k

/-- R63, R84, R111: the value a legal read at an instance offset returns; a reserved offset reads 0. -/
def readOffset (s : State) (e : EngineId) (off : Nat) : Word :=
  match Reg.ofOffset s.params off with
  | some r => regValue s e r
  | none => 0

/-! ## Bus operations the families share -/

/-- R108: a configuration write: ignored with WERR while BUSY, else the writable fields are stored. -/
def configWrite (r : RwReg) (w : Word) (x : Engine) : Engine :=
  if x.busy then flagWerr x else RwReg.set x r (w &&& r.mask)

/-- R110: CAP_WDATA: ignored with WERR while BUSY or unconfigured, else one sample is appended to the owned buffer. -/
def appendSample (e : EngineId) (w : Word) (s : State) : State :=
  let x := s.eng e
  if x.busy || !x.cfgd then s.modEng e flagWerr
  else s.setBuf x.chan (CapBuf.push s.params.capDepth (s.buf x.chan) (sampleOfWord w))

/-- R100: the acceptance of a command other than NOP: ignored with CMDERR while BUSY, else DONE and ERR are cleared and
the command's own effect follows. -/
def acceptCommand (e : EngineId) (effect : State → State) (s : State) : State :=
  if (s.eng e).busy then s.modEng e flagCmderr
  else effect (s.modEng e clearDoneErr)

/-! ## Reset (R270) -/

/-- R270: "puts every piece of state of every instance, and all shared state, into the values of rule R271 at once", with
fresh event traces. The parameters, what arrives next and the tick count stay (Log 19). -/
def resetAll (s : State) : State :=
  { State.resetWith s.params with rst := s.rst, inputs := s.inputs, now := s.now }

/-- R270: a new level of the reset input. Asserting it is the reset event; releasing it changes nothing else. -/
def resetInput (level : Bool) (s : State) : State :=
  if level then { resetAll s with rst := true } else { s with rst := false }

end Sys2Proof.Machine
end

