-- ==== Sys2Proof/Machine/FrameDecoder.lean ====
section
/-! DEFINITION. The frame decoder and checksum validator (43_decode.md): a pure function from the samples and three
configuration values to a result, exact in integers, and the publication of a successful result (R196). -/

namespace Sys2Proof.Machine

/-- What a successful decode gives (R190); `hum` and `temp` are exact tenths (R199). -/
structure Frame where
  h    : Half
  t    : Half
  c    : BitVec 8
  hum  : Int
  temp : Int
  tneg : Bool
  deriving DecidableEq, Repr

/-- The result of a decode (R190). -/
inductive DecodeResult
  | ok (f : Frame)
  | insufficientData
  | checksumError
  deriving DecidableEq, Repr

/-- R190: the result's code, 0, 4 or 5. -/
def DecodeResult.code : DecodeResult → ErrCode
  | .ok _ => .none
  | .insufficientData => .insufficientData
  | .checksumError => .checksumError

/-- R191: the duration that BITPH selects: the low one, or the high one if set. -/
def selectedDuration (bitph : Bool) (q : Sample) : Half := if bitph then q.high else q.low

/-- R191: a selected duration below the threshold is a 0, otherwise a 1. -/
def sampleBit (bitph : Bool) (thr : Half) (q : Sample) : Bool :=
  decide (thr.toNat ≤ (selectedDuration bitph q).toNat)

/-- R90, R191: frame bit `f[j]` comes from sample `s[j+1]`; sample 0, the marker, is skipped. -/
def frameBit (bitph : Bool) (thr : Half) (ss : List Sample) (j : Nat) : Bool :=
  sampleBit bitph thr (ss.getD (j + 1) ⟨0, 0⟩)

/-- R192: `Σ_{k=0..n-1} f[start + k] << (n-1-k)`, most significant bit first. -/
def gatherBits (f : Nat → Bool) (start : Nat) : Nat → Nat
  | 0 => 0
  | n + 1 => (f start).toNat * 2 ^ n + gatherBits f (start + 1) n

/-- R192: humidity_raw, from frame bits 0..15. -/
def humidityRaw (f : Nat → Bool) : Half := BitVec.ofNat 16 (gatherBits f 0 16)

/-- R192: temperature_raw, from frame bits 16..31. -/
def temperatureRaw (f : Nat → Bool) : Half := BitVec.ofNat 16 (gatherBits f 16 16)

/-- R192: checksum, from frame bits 32..39. -/
def checksumField (f : Nat → Bool) : BitVec 8 := BitVec.ofNat 8 (gatherBits f 32 8)

/-- Bits 15:8 of a frame field. -/
def highByte (v : Half) : Nat := v.toNat / 256

/-- Bits 7:0 of a frame field. -/
def lowByte (v : Half) : Nat := v.toNat % 256

/-- R193: `(H[15:8] + H[7:0] + T[15:8] + T[7:0]) mod 256`. -/
def frameChecksum (h t : Half) : BitVec 8 :=
  BitVec.ofNat 8 (highByte h + lowByte h + highByte t + lowByte t)

/-- R194 (PROFILE 0): the sign flag, T[15]. -/
def signFlag (t : Half) : Bool := t.getLsbD 15

/-- R194 (PROFILE 0): T[14:0]. -/
def magnitude (t : Half) : Nat := t.toNat % 2 ^ 15

/-- R194, R195: the conversion: `(hum, temp, tneg)` under PROFILE 0 (sign-magnitude tenths) or PROFILE 1 (integer byte and
tenths byte). -/
def convert (profile : Bool) (h t : Half) : Int × Int × Bool :=
  if profile then
    ((10 * highByte h + lowByte h : Nat), (10 * highByte t + lowByte t : Nat), false)
  else
    ((h.toNat : Int), if signFlag t then -(magnitude t : Int) else (magnitude t : Int), signFlag t)

/-- R190: `Decode(s, profile, bitph, thr)`: the length first, then the checksum, then the conversion. -/
def decodeFrame (ss : List Sample) (profile bitph : Bool) (thr : Half) : DecodeResult :=
  if ss.length < Config.minSamples then .insufficientData
  else
    let f := frameBit bitph thr ss
    let h := humidityRaw f
    let t := temperatureRaw f
    let c := checksumField f
    if c ≠ frameChecksum h t then .checksumError
    else
      let v := convert profile h t
      .ok { h := h, t := t, c := c, hum := v.1, temp := v.2.1, tneg := v.2.2 }

/-- R105, R165: the decode of a buffer under an instance's CFG.PROFILE, CFG.BITPH and BIT_THR[15:0]. -/
def decodeBuffer (x : Engine) (b : CapBuf) : DecodeResult :=
  decodeFrame b.samples (cfgProfile x.cfg) (cfgBitph x.cfg) (low16 x.bitThr)

/-- R196: `write_results(r)`. -/
def writeResults (f : Frame) (x : Engine) : Engine :=
  { x with
    resHum := BitVec.ofInt 32 f.hum
    resTemp := BitVec.ofInt 32 f.temp
    resRaw := f.h ++ f.t
    resCsum := f.c
    tneg := f.tneg
    valid := true }

/-- R105, R165: `if r is ok: write_results(r)`; R197: otherwise no result is written. -/
def publish (r : DecodeResult) (x : Engine) : Engine :=
  match r with
  | .ok f => writeResults f x
  | .insufficientData => x
  | .checksumError => x

end Sys2Proof.Machine
end

