-- ==== Sys2Proof/Machine/Sequencer.lean ====
section
/-! DEFINITION. The tick step: the start-sequence phases (41_transaction.md R131-R134), the pulse-capture sequencer
(42_capture.md R160-R165) and the retry wait (44_retry.md R222). A tick step reads and writes its own instance and the
buffer of the channel it latched, nothing else (R169). -/

namespace Sys2Proof.Machine

/-! ## Start sequence -/

/-- `st.cnt <- st.cnt + 1`, saturating (R54, Log 12). -/
def countTick (x : Engine) : Engine := { x with cnt := sat32 (x.cnt.toNat + 1) }

/-- `st.cnt >= max1(limit)` (R136: a limit of 0 acts as 1). -/
def countReached (limit : Word) (x : Engine) : Bool := decide (max1 limit ≤ x.cnt.toNat)

/-- R131: SETTLE. -/
def tickSettle (x : Engine) : Engine :=
  let x := countTick x
  if countReached x.tSettle x then
    { driveGpio Gpio.driveLow x with phase := .startLow, cnt := 0 }
  else x

/-- R132: START_LOW. -/
def tickStartLow (x : Engine) : Engine :=
  let x := countTick x
  if countReached x.tLow x then
    { driveGpio Gpio.inputPullUp x with phase := .relWait, cnt := 0 }
  else x

/-- R133: REL_WAIT. -/
def tickRelWait (x : Engine) : Engine :=
  let x := countTick x
  if countReached x.tRel x then { x with phase := .respWait, cnt := 0 } else x

/-- R222: RETRY_WAIT. -/
def tickRetryWait (x : Engine) : Engine :=
  let x := countTick x
  if countReached x.tRetry x then beginAttempt (x.attempt + 1) x else x

/-! ## Capture -/

/-- R160: `capture_start()`: the instance's side; the owned buffer is emptied beside it. -/
def captureStart (x : Engine) : Engine :=
  let x := { x with
    curLevel := true, curLen := 1, edgeSeen := false, pendValid := false, pendHigh := 0, rx := 0 }
  { emit (.capStart x.chan) x with phase := .capture }

/-- R134: RESP_WAIT. The first high sample starts the capture; `max1(T_RESP)` low ones raise NoResponse. -/
def tickRespWait (line : Bool) (x : Engine) (b : CapBuf) : Engine × CapBuf :=
  if line then (captureStart x, b.empty)
  else
    let x := countTick x
    if countReached x.tResp x then (attemptEnd .noResponse x, b) else (x, b)

/-- R162: `close_phase()`: a falling edge keeps the high duration; a rising edge pushes the pair. -/
def closePhase (depth : Nat) (x : Engine) (b : CapBuf) : Engine × CapBuf :=
  if x.curLevel then ({ x with pendHigh := x.curLen, pendValid := true }, b)
  else if x.pendValid then ({ x with pendValid := false }, b.push depth ⟨x.pendHigh, x.curLen⟩)
  else (x, b)

/-- R161: the sample of a CAPTURE tick: the current level goes on, or an edge closes the phase. -/
def captureSample (depth : Nat) (line : Bool) (x : Engine) (b : CapBuf) : Engine × CapBuf :=
  if line = x.curLevel then ({ x with curLen := sat16 (x.curLen.toNat + 1) }, b)
  else
    let r := closePhase depth x b
    ({ r.1 with curLevel := line, curLen := 1, edgeSeen := true }, r.2)

/-- R164: complete: an edge has been seen and the level has held for `max1(T_IDLE)` samples. -/
def captureComplete (x : Engine) : Bool :=
  x.edgeSeen && decide (max1 ((low16 x.tIdle).setWidth 32) ≤ x.curLen.toNat)

/-- R164: the window has lasted `max1(T_RXTO)` capture ticks. -/
def captureExpired (x : Engine) : Bool := decide (max1 x.tRxto ≤ x.rx.toNat)

/-- R165: how the window closes. -/
inductive ExitKind
  | complete
  | timeout
  deriving DecidableEq, Repr

/-- R165: `capture_exit(kind)`. -/
def captureExit (kind : ExitKind) (x : Engine) (b : CapBuf) : Engine :=
  let c := x.chan
  match kind with
  | .complete =>
    let r := decodeBuffer x b
    attemptEnd r.code (emit (.capStop c) (emit (.capRelease c) (publish r x)))
  | .timeout =>
    attemptEnd .captureTimeout (emit (.capStop c) (emit (.capRelease c) x))

/-- R161: CAPTURE. Completion wins over a timeout in the same tick (R164, R245). -/
def tickCapture (depth : Nat) (line : Bool) (x : Engine) (b : CapBuf) : Engine × CapBuf :=
  let r := captureSample depth line x b
  let x := { r.1 with rx := sat32 (r.1.rx.toNat + 1) }
  let b := r.2
  if captureComplete x then (captureExit .complete x b, b)
  else if captureExpired x then (captureExit .timeout x b, b)
  else (x, b)

/-! ## Tick dispatch -/

/-- R142: the tick step of one instance, on its state and the buffer of its channel. -/
def tickUnit (depth : Nat) (line : Bool) (x : Engine) (b : CapBuf) : Engine × CapBuf :=
  match x.phase with
  | .idle => (x, b)
  | .settle => (tickSettle x, b)
  | .startLow => (tickStartLow x, b)
  | .relWait => (tickRelWait x, b)
  | .respWait => tickRespWait line x b
  | .capture => tickCapture depth line x b
  | .retryWait => (tickRetryWait x, b)

/-- R57: "instance i reads pin_in[ACT.PIN] as line" (Log 17). -/
def lineOf (pins : BitVec 64) (x : Engine) : Bool := pins.getLsbD x.pin.toNat

/-- R142: the tick step of instance `e` in the block. -/
def tickEngine (pins : BitVec 64) (e : EngineId) (s : State) : State :=
  let x := s.eng e
  let r := tickUnit s.params.capDepth (lineOf pins x) x (s.buf x.chan)
  (s.setEng e r.1).setBuf x.chan r.2

/-- The instances in index order; "their order is unobservable" (R245, Log 15). -/
def engineIds : List EngineId := [0, 1, 2, 3, 4, 5, 6, 7]

/-- R8, R142: every existing instance takes one tick step. -/
def tickEngines (pins : BitVec 64) (s : State) : State :=
  engineIds.foldl (fun s e => if engineExists s.params e then tickEngine pins e s else s) s

/-- R8, R57: a pulse of `tick`; R270: "While rst stays asserted, no tick step ... takes effect". -/
def tickPulse (pins : BitVec 64) (s : State) : State :=
  let s := { s with now := s.now + 1 }
  if s.rst then s else tickEngines pins s

/-- Tick pulses one after another, with no access between them. -/
def tickRun (levels : List (BitVec 64)) (s : State) : State := levels.foldl (fun s pins => tickPulse pins s) s

end Sys2Proof.Machine
end

