-- ==== Sys2Proof/Machine/BusOps.lean ====
section
/-! DEFINITION. The BUS family: configuration writes (R108), STATUS writes (R109), sample writes (R110), register reads
(R111), writes to read-only registers (R112), writes to reserved offsets (R63) and illegal accesses (R61). -/

namespace Sys2Proof.Machine

/-- WR_CTRL, R108. -/
def execWrCtrl (e : EngineId) (d : Word) (s : State) : Host.Outcome State Fault Refusal :=
  .next (s.modEng e (configWrite .ctrl d))

/-- WR_CFG, R108. -/
def execWrCfg (e : EngineId) (d : Word) (s : State) : Host.Outcome State Fault Refusal :=
  .next (s.modEng e (configWrite .cfg d))

/-- WR_T_SETTLE, R108. -/
def execWrTSettle (e : EngineId) (d : Word) (s : State) : Host.Outcome State Fault Refusal :=
  .next (s.modEng e (configWrite .tSettle d))

/-- WR_T_LOW, R108. -/
def execWrTLow (e : EngineId) (d : Word) (s : State) : Host.Outcome State Fault Refusal :=
  .next (s.modEng e (configWrite .tLow d))

/-- WR_T_REL, R108. -/
def execWrTRel (e : EngineId) (d : Word) (s : State) : Host.Outcome State Fault Refusal :=
  .next (s.modEng e (configWrite .tRel d))

/-- WR_T_RESP, R108. -/
def execWrTResp (e : EngineId) (d : Word) (s : State) : Host.Outcome State Fault Refusal :=
  .next (s.modEng e (configWrite .tResp d))

/-- WR_T_RXTO, R108. -/
def execWrTRxto (e : EngineId) (d : Word) (s : State) : Host.Outcome State Fault Refusal :=
  .next (s.modEng e (configWrite .tRxto d))

/-- WR_T_IDLE, R108. -/
def execWrTIdle (e : EngineId) (d : Word) (s : State) : Host.Outcome State Fault Refusal :=
  .next (s.modEng e (configWrite .tIdle d))

/-- WR_T_RETRY, R108. -/
def execWrTRetry (e : EngineId) (d : Word) (s : State) : Host.Outcome State Fault Refusal :=
  .next (s.modEng e (configWrite .tRetry d))

/-- WR_BIT_THR, R108. -/
def execWrBitThr (e : EngineId) (d : Word) (s : State) : Host.Outcome State Fault Refusal :=
  .next (s.modEng e (configWrite .bitThr d))

/-- STATUS_W1C, R109; allowed while BUSY. -/
def execStatusW1c (e : EngineId) (d : Word) (s : State) : Host.Outcome State Fault Refusal :=
  .next (s.modEng e (statusClear d))

/-- CAP_WDATA_WRITE, R110. -/
def execCapWdataWrite (e : EngineId) (d : Word) (s : State) : Host.Outcome State Fault Refusal :=
  .next (appendSample e d s)

/-- RO_WRITE_ATTLOG, R112: "no effect", no flag, whether or not BUSY. -/
def execRoWriteAttlog (_e : EngineId) (_d : Word) (s : State) : Host.Outcome State Fault Refusal := .next s

/-- RO_WRITE_RES_HUM, R112: "no effect", no flag, whether or not BUSY. -/
def execRoWriteResHum (_e : EngineId) (_d : Word) (s : State) : Host.Outcome State Fault Refusal := .next s

/-- RO_WRITE_RES_TEMP, R112: "no effect", no flag, whether or not BUSY. -/
def execRoWriteResTemp (_e : EngineId) (_d : Word) (s : State) : Host.Outcome State Fault Refusal := .next s

/-- RO_WRITE_RES_RAW, R112: "no effect", no flag, whether or not BUSY. -/
def execRoWriteResRaw (_e : EngineId) (_d : Word) (s : State) : Host.Outcome State Fault Refusal := .next s

/-- RO_WRITE_RES_CSUM, R112: "no effect", no flag, whether or not BUSY. -/
def execRoWriteResCsum (_e : EngineId) (_d : Word) (s : State) : Host.Outcome State Fault Refusal := .next s

/-- RO_WRITE_CAP_COUNT, R112: "no effect", no flag, whether or not BUSY. -/
def execRoWriteCapCount (_e : EngineId) (_d : Word) (s : State) : Host.Outcome State Fault Refusal := .next s

/-- RO_WRITE_ACT, R112: "no effect", no flag, whether or not BUSY. -/
def execRoWriteAct (_e : EngineId) (_d : Word) (s : State) : Host.Outcome State Fault Refusal := .next s

/-- RO_WRITE_CAP_DATA, R112: "no effect", no flag, whether or not BUSY. -/
def execRoWriteCapData (_e : EngineId) (_k : Fin 64) (_d : Word) (s : State) : Host.Outcome State Fault Refusal :=
  .next s

/-- REG_READ, R111: the value goes to the host on the bus; reads have no side effect (R64). -/
def execRegRead (e : EngineId) (off : BitVec 9) (s : State) : Host.Outcome State Fault Refusal :=
  .next { s with rdata := readOffset s e off.toNat }

/-- RESERVED_WRITE, R63: "A write there has no effect and sets no flag." -/
def execReservedWrite (_e : EngineId) (_off : BitVec 9) (_d : Word) (s : State) : Host.Outcome State Fault Refusal :=
  .next s

/-- SUBWORD_OR_MISALIGNED, R61, R243: the bus error; "A model treats it as a fault of the host program". -/
def execSubwordOrMisaligned (_a : Access) (_s : State) : Host.Outcome State Fault Refusal := .fault .busError

end Sys2Proof.Machine
end

