-- ==== Sys2Proof/Machine/Commands.lean ====
section
/-! DEFINITION. The CMD family: what each command does (40_host_commands.md R100-R107) and what a reserved command word
does (R87). -/

namespace Sys2Proof.Machine

/-! ## Effects after acceptance -/

/-- R102: CONFIG. The old claim is dropped first; then pin and channel are tested and claimed at once (R69). -/
def configEffect (e : EngineId) (s : State) : State :=
  let s := dropClaim e (s.modEng e clearResults)
  let p := cfgPin (s.eng e).cfg
  let c := cfgChan (s.eng e).cfg
  if claimAllowed s p c then
    (takeClaim e p c s).modEng e (fun x => finish .none (emit (.capStop c) (emit (.capStart c) x)))
  else s.modEng e (finish .peripheralConfigError)

/-- R103: UNCONFIG. -/
def unconfigEffect (e : EngineId) (s : State) : State :=
  let s := dropClaim e (s.modEng e clearResults)
  s.modEng e (fun x => finish .none (driveGpio Gpio.released x))

/-- R104: CAPCLR. -/
def capclrEffect (e : EngineId) (s : State) : State :=
  let x := s.eng e
  if x.cfgd then (s.setBuf x.chan (s.buf x.chan).empty).modEng e (finish .none)
  else s.modEng e (finish .peripheralConfigError)

/-- R105: DECODE. -/
def decodeEffect (e : EngineId) (s : State) : State :=
  let s := s.modEng e clearResults
  let x := s.eng e
  if x.cfgd then
    let r := decodeBuffer x (s.buf x.chan)
    s.modEng e (fun x => finish r.code (publish r x))
  else s.modEng e (finish .peripheralConfigError)

/-- R106, R107: READ and TRANSACT differ in `st.mode`; without a claim they complete at once, with no attempt. -/
def startEffect (m : Mode) (x : Engine) : Engine :=
  let x := { x with attempt := 0, attlog := ⟨0, 0, 0⟩ }
  if x.cfgd then beginAttempt 1 { x with mode := m, busy := true }
  else finish .peripheralConfigError (clearResults x)

/-- R100: the whole CMD write: a reserved word, NOP, or a command. -/
def commandWrite (e : EngineId) (w : Word) (s : State) : State :=
  if cmdReserved w then s.modEng e flagCmderr
  else match (cmdCode w).toNat with
    | 0 => s
    | 1 => acceptCommand e (fun s => s.modEng e (startEffect .read)) s
    | 2 => acceptCommand e (fun s => s.modEng e (startEffect .transact)) s
    | 3 => acceptCommand e (decodeEffect e) s
    | 4 => acceptCommand e (configEffect e) s
    | 5 => acceptCommand e (unconfigEffect e) s
    | 6 => acceptCommand e (capclrEffect e) s
    | _ => s.modEng e flagCmderr

/-! ## The meanings -/

/-- NOP, R101: "no effect", even while BUSY. -/
def execNop (_e : EngineId) (s : State) : Host.Outcome State Fault Refusal := .next s

/-- READ, R100 and R106. -/
def execRead (e : EngineId) (s : State) : Host.Outcome State Fault Refusal :=
  .next (acceptCommand e (fun s => s.modEng e (startEffect .read)) s)

/-- TRANSACT, R100 and R107. -/
def execTransact (e : EngineId) (s : State) : Host.Outcome State Fault Refusal :=
  .next (acceptCommand e (fun s => s.modEng e (startEffect .transact)) s)

/-- DECODE, R100 and R105. -/
def execDecode (e : EngineId) (s : State) : Host.Outcome State Fault Refusal :=
  .next (acceptCommand e (decodeEffect e) s)

/-- CONFIG, R100 and R102. -/
def execConfig (e : EngineId) (s : State) : Host.Outcome State Fault Refusal :=
  .next (acceptCommand e (configEffect e) s)

/-- UNCONFIG, R100 and R103. -/
def execUnconfig (e : EngineId) (s : State) : Host.Outcome State Fault Refusal :=
  .next (acceptCommand e (unconfigEffect e) s)

/-- CAPCLR, R100 and R104. -/
def execCapclr (e : EngineId) (s : State) : Host.Outcome State Fault Refusal :=
  .next (acceptCommand e (capclrEffect e) s)

/-- RESERVED_CMD_7, R87: "Its only effect is STATUS.CMDERR <- 1". -/
def execReservedCmd7 (e : EngineId) (s : State) : Host.Outcome State Fault Refusal :=
  .next (s.modEng e flagCmderr)

/-- RESERVED_CMD_8_F, R87. -/
def execReservedCmd8F (e : EngineId) (_low : BitVec 3) (s : State) : Host.Outcome State Fault Refusal :=
  .next (s.modEng e flagCmderr)

/-- RESERVED_CMD_MBZ, R87. -/
def execReservedCmdMbz (e : EngineId) (_mbz : BitVec 28) (_code : BitVec 4) (s : State) :
    Host.Outcome State Fault Refusal :=
  .next (s.modEng e flagCmderr)

/-- CMD_WRITE, R100. -/
def execCmdWrite (e : EngineId) (d : Word) (s : State) : Host.Outcome State Fault Refusal :=
  .next (commandWrite e d s)

end Sys2Proof.Machine
end

