-- ==== Sys2Proof/Machine/Dispatch.lean ====
section
/-! DEFINITION. The dispatch: one arm per operation, each a direct call of its meaning. -/

namespace Sys2Proof.Machine

def exec (i : Instr) (s : State) : Host.Outcome State Fault Refusal :=
  match i with
  | .nop e => Sys2Proof.Machine.execNop e s
  | .read e => Sys2Proof.Machine.execRead e s
  | .transact e => Sys2Proof.Machine.execTransact e s
  | .decode e => Sys2Proof.Machine.execDecode e s
  | .config e => Sys2Proof.Machine.execConfig e s
  | .unconfig e => Sys2Proof.Machine.execUnconfig e s
  | .capclr e => Sys2Proof.Machine.execCapclr e s
  | .reservedCmd7 e => Sys2Proof.Machine.execReservedCmd7 e s
  | .reservedCmd8F e low => Sys2Proof.Machine.execReservedCmd8F e low s
  | .reservedCmdMbz e mbz code => Sys2Proof.Machine.execReservedCmdMbz e mbz code s
  | .cmdWrite e d => Sys2Proof.Machine.execCmdWrite e d s
  | .wrCtrl e d => Sys2Proof.Machine.execWrCtrl e d s
  | .wrCfg e d => Sys2Proof.Machine.execWrCfg e d s
  | .wrTSettle e d => Sys2Proof.Machine.execWrTSettle e d s
  | .wrTLow e d => Sys2Proof.Machine.execWrTLow e d s
  | .wrTRel e d => Sys2Proof.Machine.execWrTRel e d s
  | .wrTResp e d => Sys2Proof.Machine.execWrTResp e d s
  | .wrTRxto e d => Sys2Proof.Machine.execWrTRxto e d s
  | .wrTIdle e d => Sys2Proof.Machine.execWrTIdle e d s
  | .wrTRetry e d => Sys2Proof.Machine.execWrTRetry e d s
  | .wrBitThr e d => Sys2Proof.Machine.execWrBitThr e d s
  | .statusW1c e d => Sys2Proof.Machine.execStatusW1c e d s
  | .capWdataWrite e d => Sys2Proof.Machine.execCapWdataWrite e d s
  | .roWriteAttlog e d => Sys2Proof.Machine.execRoWriteAttlog e d s
  | .roWriteResHum e d => Sys2Proof.Machine.execRoWriteResHum e d s
  | .roWriteResTemp e d => Sys2Proof.Machine.execRoWriteResTemp e d s
  | .roWriteResRaw e d => Sys2Proof.Machine.execRoWriteResRaw e d s
  | .roWriteResCsum e d => Sys2Proof.Machine.execRoWriteResCsum e d s
  | .roWriteCapCount e d => Sys2Proof.Machine.execRoWriteCapCount e d s
  | .roWriteAct e d => Sys2Proof.Machine.execRoWriteAct e d s
  | .roWriteCapData e k d => Sys2Proof.Machine.execRoWriteCapData e k d s
  | .regRead e off => Sys2Proof.Machine.execRegRead e off s
  | .reservedWrite e off d => Sys2Proof.Machine.execReservedWrite e off d s
  | .subwordOrMisaligned a => Sys2Proof.Machine.execSubwordOrMisaligned a s

end Sys2Proof.Machine
end

