-- ==== Sys2Proof/Machine/Fetch.lean ====
section
/-! DEFINITION. What a step takes next, and how a bus operation is taken in: the reset input first (R270), then the
decoder. -/

namespace Sys2Proof.Machine

/-- The next thing to arrive and the state without it. With nothing listed, a tick passes whose pin levels are free
(R11, I11; Log 3, Log 4). -/
def nextInput (s : State) : Input × State :=
  match s.inputs with
  | [] => (.tick (Config.freePins s.now), s)
  | a :: rest => (a, { s with inputs := rest })

/-- What becomes of a bus operation. -/
inductive Taken
  /-- The operation is executed. -/
  | run (i : Instr)
  /-- `rst` is asserted: "no bus access takes effect. A read returns 0" (R270). -/
  | inert (s : State)
  /-- R63: none of the block's. -/
  | outside
  deriving DecidableEq, Repr

/-- R57: whether a code is a bus read. -/
def codeIsRead : Code → Bool
  | .cmd _ _ => false
  | .bus a => decide (a.dir = .read)

/-- R60: whether a code addresses the block. -/
def codeInBlock (p : Params) : Code → Bool
  | .cmd e _ => engineExists p e
  | .bus a => addressInBlock p a.addr

/-- R270, R84: a bus operation under reset is inert, otherwise it is decoded (Log 8, Log 9). -/
def takeCode (c : Code) (s : State) : Taken :=
  if s.rst && codeInBlock s.params c then
    .inert (if codeIsRead c then { s with rdata := 0 } else s)
  else match decode s.params c with
    | .ok i => .run i
    | .error .outsideBlock => .outside

/-- The state in which the next step takes the operation of a table word first (Log 6, Log 7): at the head of what
arrives, with `rst` released. -/
def placeWord (s : State) (nbits w : Nat) : State :=
  { s with rst := false, inputs := .op (tableCode s.params nbits w) :: s.inputs }

end Sys2Proof.Machine
end

