-- ==== Sys2Proof/Machine/Step.lean ====
section
/-! DEFINITION. One step of the block: the next arrival in the order of R67 is a tick (R8), a level of the reset input
(R270) or a bus operation, which is decoded and executed completely (R66). -/

namespace Sys2Proof.Machine

/-- One step. -/
def step (s : State) : Host.Outcome State Fault Refusal :=
  match nextInput s with
  | (.tick pins, s) => .next (tickPulse pins s)
  | (.rst level, s) => .next (resetInput level s)
  | (.op c, s) =>
    match takeCode c s with
    | .run i => exec i s
    | .inert s => .next s
    | .outside => .refused .outsideBlock

/-- The state in which the next step runs the operation of a table word (Log 6, Log 7). -/
def State.withFetchWord (s : State) (nbits w : Nat) : State := placeWord s nbits w

end Sys2Proof.Machine
end

