-- ==== Sys2Proof/Safety.lean ====
section
/-! DEFINITION. What the claims use: runs that do not stop, the invariants that the rules of 10_state.md and the files
after it give the block, and what one operation may not touch. -/

namespace Sys2Proof.Machine

/-! ## Runs -/

/-- `k` steps from `s` end in `t`, with no fault and no refusal on the way. -/
def RunsTo (k : Nat) (s t : State) : Prop := Sys2Proof.core.run k s = .next t

/-- Tick steps of one instance and its buffer, the line levels given one a tick. -/
def unitRun (depth : Nat) (levels : List Bool) (x : Engine) (b : CapBuf) : Engine × CapBuf :=
  levels.foldl (fun r level => tickUnit depth level r.1 r.2) (x, b)

/-! ## Ownership (R50) -/

/-- R50: `chan_owner[ch] = i` exactly when instance `i` has `st.cfgd = 1` and `st.chan = ch`; the same of pins. -/
def OwnershipExact (s : State) : Prop :=
  (∀ e c, s.chanOwnerOf c = some e ↔ ((s.eng e).cfgd = true ∧ (s.eng e).chan = c)) ∧
  (∀ e p, s.pinOwnerOf p = some e ↔ ((s.eng e).cfgd = true ∧ (s.eng e).pin = p))

/-! ## Buffers (R49) -/

/-- R49: every buffer's count is in 0..CAP_DEPTH. -/
def BuffersBounded (s : State) : Prop := ∀ c, (s.buf c).count ≤ s.params.capDepth

/-! ## Reserved bits (R22, R23, R36, R38) -/

/-- R21: the reserved bits of the configuration registers are 0. -/
def ReservedBitsZero (s : State) : Prop := ∀ e (r : RwReg), r.get (s.eng e) &&& r.mask = r.get (s.eng e)

/-! ## The sequencer -/

/-- R43: BUSY is 1 exactly when the phase is not IDLE; R142: an unconfigured instance is IDLE. -/
def Engine.phaseOk (x : Engine) : Prop :=
  (x.busy = true ↔ x.phase ≠ .idle) ∧ (x.phase ≠ .idle → x.cfgd = true)

/-- R46, R221, R225: the attempt in progress is 1..3, a TRANSACT's is 1, and only a READ's first or second waits. -/
def Engine.attemptOk (x : Engine) : Prop :=
  (x.busy = true → x.attempt ≠ 0) ∧
  (x.busy = true → x.mode = .transact → x.attempt = 1) ∧
  (x.phase = .retryWait → x.mode = .read ∧ x.attempt ≠ 3)

/-- R51: the engine never drives high, and drives low exactly in START_LOW; in every other busy phase the pin is an
input with pull-up. -/
def Engine.driveOk (x : Engine) : Prop :=
  x.gpio.out = false ∧ (x.gpio.oe = true ↔ x.phase = .startLow) ∧ (x.phase ≠ .idle → x.gpio.pu = true)

/-- R54: "no phase lets them pass its limit register". -/
def Engine.countersOk (x : Engine) : Prop :=
  (x.phase = .settle → x.cnt.toNat < max1 x.tSettle) ∧
  (x.phase = .startLow → x.cnt.toNat < max1 x.tLow) ∧
  (x.phase = .relWait → x.cnt.toNat < max1 x.tRel) ∧
  (x.phase = .respWait → x.cnt.toNat < max1 x.tResp) ∧
  (x.phase = .retryWait → x.cnt.toNat < max1 x.tRetry) ∧
  (x.phase = .capture → x.rx.toNat < max1 x.tRxto)

/-- R160-R162, R164: in CAPTURE a high is pending exactly while the level is low, the first phase is high, and once an
edge has been seen the current phase is shorter than the idle threshold. -/
def Engine.captureOk (x : Engine) : Prop :=
  x.phase = .capture →
    1 ≤ x.curLen.toNat ∧ (x.pendValid = true ↔ x.curLevel = false) ∧ (x.edgeSeen = false → x.curLevel = true) ∧
    (x.edgeSeen = true → x.curLen.toNat < max1 ((low16 x.tIdle).setWidth 32))

/-- The sequencer's invariant. -/
def SequencerConsistent (s : State) : Prop :=
  ∀ e, (s.eng e).phaseOk ∧ (s.eng e).attemptOk ∧ (s.eng e).driveOk ∧ (s.eng e).countersOk ∧ (s.eng e).captureOk

/-! ## Results (R25, R27-R30, R106, R197) -/

/-- R25, R27-R30: without VALID every result register reads 0 and TNEG is 0; R100, R106: while BUSY there is no reading,
DONE is 0 and ERR is 0; R29, R30: with VALID, RES_CSUM is the checksum of the frame in RES_RAW. -/
def Engine.resultsOk (x : Engine) : Prop :=
  (x.valid = false → x.resHum = 0 ∧ x.resTemp = 0 ∧ x.resRaw = 0 ∧ x.resCsum = 0 ∧ x.tneg = false) ∧
  (x.valid = true → x.resCsum = frameChecksum (x.resRaw.extractLsb' 16 16) (x.resRaw.extractLsb' 0 16)) ∧
  (x.busy = true → x.valid = false ∧ x.done = false ∧ x.err = .none)

/-- The result registers' invariant, with R43 that it rests on. -/
def ResultsConsistent (s : State) : Prop := ∀ e, (s.eng e).phaseOk ∧ (s.eng e).resultsOk

/-! ## Capture windows in the trace (R53, R102, R160, R165) -/

/-- How many capture windows were opened, the warm-up of CONFIG among them. -/
def windowsOpened (tr : List Event) : Nat :=
  tr.countP (fun ev => match ev with | .capStart _ => true | _ => false)

/-- How many capture windows were closed. -/
def windowsClosed (tr : List Event) : Nat :=
  tr.countP (fun ev => match ev with | .capStop _ => true | _ => false)

/-- How many attempts were begun. -/
def attemptsBegun (tr : List Event) : Nat :=
  tr.countP (fun ev => match ev with | .attBegin _ => true | _ => false)

/-- How many attempts were ended. -/
def attemptsEnded (tr : List Event) : Nat :=
  tr.countP (fun ev => match ev with | .attEnd _ _ => true | _ => false)

/-- R165: a window is open exactly in CAPTURE, and at most that one; R130, R221: an attempt is open exactly in the phases
1 to 5 (R220 Attempting). -/
def Engine.windowsOk (x : Engine) : Prop :=
  windowsOpened x.trace = windowsClosed x.trace + (if x.phase = .capture then 1 else 0) ∧
  attemptsBegun x.trace = attemptsEnded x.trace + (if x.phase = .idle ∨ x.phase = .retryWait then 0 else 1)

/-- The trace's invariant, with R43 that it rests on. -/
def WindowsBalanced (s : State) : Prop := ∀ e, (s.eng e).phaseOk ∧ (s.eng e).windowsOk

/-! ## Frames -/

/-- Everything but instance `e`, the buffers and the owner tables is the same. -/
def SameOutside (e : EngineId) (s t : State) : Prop :=
  t.params = s.params ∧ t.rdata = s.rdata ∧ t.rst = s.rst ∧ t.inputs = s.inputs ∧ t.now = s.now ∧
  (∀ f, f ≠ e → t.eng f = s.eng f)

/-- The owner tables are the same. -/
def SameOwners (s t : State) : Prop :=
  (∀ c, t.chanOwnerOf c = s.chanOwnerOf c) ∧ (∀ p, t.pinOwnerOf p = s.pinOwnerOf p)

/-- Every capture buffer but channel `c`'s is the same. -/
def SameBuffersBut (c : BitVec 3) (s t : State) : Prop := ∀ d, d ≠ c → t.buf d = s.buf d

/-- Every capture buffer is the same. -/
def SameBuffers (s t : State) : Prop := ∀ d, t.buf d = s.buf d

/-- The instance an operation addresses; an illegal access addresses none. -/
def engineOf : Instr → Option EngineId
  | .nop e | .read e | .transact e | .decode e | .config e | .unconfig e | .capclr e
  | .reservedCmd7 e | .reservedCmd8F e _ | .reservedCmdMbz e _ _ | .cmdWrite e _
  | .wrCtrl e _ | .wrCfg e _ | .wrTSettle e _ | .wrTLow e _ | .wrTRel e _ | .wrTResp e _ | .wrTRxto e _
  | .wrTIdle e _ | .wrTRetry e _ | .wrBitThr e _ | .statusW1c e _ | .capWdataWrite e _
  | .roWriteAttlog e _ | .roWriteResHum e _ | .roWriteResTemp e _ | .roWriteResRaw e _ | .roWriteResCsum e _
  | .roWriteCapCount e _ | .roWriteAct e _ | .roWriteCapData e _ _ | .regRead e _ | .reservedWrite e _ _ => some e
  | .subwordOrMisaligned _ => none

end Sys2Proof.Machine
end

