-- ==== Sys2Proof/Certificates/Slice0/Obligations.lean ====
section
/-! DEFINITION. The statements for the provers. Each says what a rule of spec/ says of an operation, of a tick or of the
whole block; its docstring names the rule. A statement about every state holds for every value of the parameters of R7
(they are part of the state) and for every pin level. -/

open Sys2Proof Sys2Proof.Machine

/-! ## Encoding and decoding -/

/-- The encoder and the decoder agree: no operand bit of any operation is dropped (30_encoding.md R80, R84, R86-R88). -/
def Obligations.DecodeOfEncodeIsTheOperation : Prop :=
  ∀ (p : Params) (i : Instr), p.wf = true → wellFormed p i = true → decode p (encode p i) = .ok i

/-- What the decoder answers is well-formed, for every code of either format (R84, R87). -/
def Obligations.DecodedOperationIsWellFormed : Prop :=
  ∀ (p : Params) (c : Code) (i : Instr), p.wf = true → decode p c = .ok i → wellFormed p i = true

/-- R87: "Every one of the 2^32 command words is either one of the seven commands of rule R86 or reserved": the decoder
gives each word one operation, whose encoding is that word. -/
def Obligations.EveryCommandWordHasOneOperation : Prop :=
  ∀ (p : Params) (e : EngineId) (w : Word), engineExists p e = true →
    decode p (.cmd e w) = .ok (decodeCommand e w) ∧ encode p (decodeCommand e w) = .cmd e w ∧
    (cmdReserved w = true ↔
      (decodeCommand e w = .reservedCmd7 e ∨ (∃ low, decodeCommand e w = .reservedCmd8F e low) ∨
        (∃ mbz code, decodeCommand e w = .reservedCmdMbz e mbz code)))

/-- Command words and offsets written out from R86 and R21, and the operations they stand for; that a table word of fewer
than 32 bits is a write of 0 at that offset of instance 0 is the model's choice (Log 6). -/
def Obligations.WordsDecodeAsTheTablesSay : Prop :=
  decodeTableWord 32 0x00000000 = some (.nop 0) ∧
  decodeTableWord 32 0x00000001 = some (.read 0) ∧
  decodeTableWord 32 0x00000002 = some (.transact 0) ∧
  decodeTableWord 32 0x00000003 = some (.decode 0) ∧
  decodeTableWord 32 0x00000004 = some (.config 0) ∧
  decodeTableWord 32 0x00000005 = some (.unconfig 0) ∧
  decodeTableWord 32 0x00000006 = some (.capclr 0) ∧
  decodeTableWord 32 0x80000001 = some (.reservedCmdMbz 0 0x8000000 1) ∧
  decodeTableWord 16 0x024 = some (.wrTSettle 0 0) ∧
  decodeTableWord 16 0x00C = some (.statusW1c 0 0) ∧
  decodeTableWord 16 0x048 = some (.capWdataWrite 0 0) ∧
  decodeTableWord 16 0x014 = some (.roWriteResHum 0 0) ∧
  decodeTableWord 16 0x1FC = some (.roWriteCapData 0 63 0) ∧
  decodeTableWord 16 0x050 = some (.reservedWrite 0 0x050 0)

/-- R60, R84: an address in the block selects instance floor((addr - BASE) / 0x200) and offset (addr - BASE) mod 0x200, and
the offset and the direction select the operation; R63: an address outside the block is not decoded. -/
def Obligations.AddressSelectsInstanceAndOffset : Prop :=
  ∀ (p : Params) (a : Access), p.wf = true →
    ((a.addr < p.base ∨ p.base + p.nInst * 0x200 ≤ a.addr) → decode p (.bus a) = .error .outsideBlock) ∧
    (∀ (e : EngineId) (off : Nat), engineExists p e = true → off < 0x200 → off % 4 = 0 →
      a.addr = p.base + e.val * 0x200 + off → a.width = .w32 →
      (a.dir = .read → decode p (.bus a) = .ok (.regRead e (BitVec.ofNat 9 off))) ∧
      (a.dir = .write → ∀ r, Reg.offset r = off → (∀ k, r = .capData k → k.val < p.capDepth) →
        decode p (.bus a) = .ok (writeOf e a.data r)) ∧
      (a.dir = .write → offsetReserved p (BitVec.ofNat 9 off) = true →
        decode p (.bus a) = .ok (.reservedWrite e (BitVec.ofNat 9 off) a.data)))

/-! ## Steps -/

/-- R66, R88: when the next arrival is a bus operation that decodes to `i`, the step is `exec i` on the state without that
arrival. R63 says of an access outside the block only that it is not decoded; that the step refuses it by name is the
model's choice (Log 9, DEDUCED; 93_implementation_defined.md I10 says `refuse`). -/
def Obligations.StepRunsTheDecodedOperation : Prop :=
  ∀ (s : State) (c : Code) (rest : List Input), s.rst = false → s.inputs = .op c :: rest →
    (∀ i, decode s.params c = .ok i → step s = exec i { s with inputs := rest }) ∧
    (decode s.params c = .error .outsideBlock → step s = .refused .outsideBlock)

/-- R8, R142: a tick steps every existing instance on its own state and the buffer of its own channel, exactly once, and
nothing else; when no input is listed the tick's pin levels are the free ones (Log 3, Log 4). -/
def Obligations.TickStepsEveryInstanceOnce : Prop :=
  ∀ (s : State) (pins : BitVec 64) (rest : List Input), s.rst = false →
    OwnershipExact s → (∀ e, (s.eng e).phaseOk) →
    ((s.inputs = .tick pins :: rest ∨ (s.inputs = [] ∧ rest = [] ∧ pins = Config.freePins s.now)) →
      ∃ t, step s = .next t ∧
        (∀ e, engineExists s.params e = true →
          t.eng e = (tickUnit s.params.capDepth (pins.getLsbD (s.eng e).pin.toNat) (s.eng e)
            (s.buf (s.eng e).chan)).1) ∧
        (∀ e, engineExists s.params e = false → t.eng e = s.eng e) ∧
        (∀ e, engineExists s.params e = true → (s.eng e).cfgd = true →
          t.buf (s.eng e).chan = (tickUnit s.params.capDepth (pins.getLsbD (s.eng e).pin.toNat) (s.eng e)
            (s.buf (s.eng e).chan)).2) ∧
        (∀ c, (∀ e, s.chanOwnerOf c = some e → engineExists s.params e = false) → t.buf c = s.buf c) ∧
        SameOwners s t ∧ t.params = s.params ∧ t.rdata = s.rdata ∧ t.rst = s.rst ∧ t.inputs = rest ∧
        t.now = s.now + 1)

/-- R49, R245: two instances' tick steps in one tick are independent and their order is unobservable. -/
def Obligations.EngineTicksCommute : Prop :=
  ∀ (s : State) (pins : BitVec 64) (e f : EngineId), e ≠ f → OwnershipExact s → (∀ g, (s.eng g).phaseOk) →
    tickEngine pins e (tickEngine pins f s) = tickEngine pins f (tickEngine pins e s)

/-- R61, R243: an access of the wrong width or alignment is a bus error: the machine faults, on every state, and the step
that takes one does. -/
def Obligations.IllegalAccessFaults : Prop :=
  (∀ (a : Access) (s : State), exec (.subwordOrMisaligned a) s = .fault .busError) ∧
  (∀ (s : State) (a : Access) (rest : List Input), s.rst = false → s.inputs = .op (.bus a) :: rest →
    addressInBlock s.params a.addr = true → (a.width ≠ .w32 ∨ a.addr % 4 ≠ 0) → step s = .fault .busError)

/-- The block stops on nothing else: every operation but an illegal access answers a next state, and a step faults only on
an access of the wrong width or alignment (R61, R243). Two clauses are the model's choices: that a step is refused, and
only for an operation outside the block, is Log 9 (DEDUCED; R63 says not decoded, 93_implementation_defined.md I10 says
`refuse`); that an illegal access under `rst` does not fault is Log 8 (DEDUCED from R245, reset wins over anything). -/
def Obligations.OnlyIllegalAccessesStop : Prop :=
  (∀ (i : Instr) (s : State), (∀ a, i ≠ .subwordOrMisaligned a) → ∃ t, exec i s = .next t) ∧
  (∀ (s : State) (r : Refusal), step s = .refused r →
    r = .outsideBlock ∧ ∃ c rest, s.inputs = .op c :: rest ∧ codeInBlock s.params c = false) ∧
  (∀ (s : State) (r : Fault), step s = .fault r →
    s.rst = false ∧ ∃ a rest, s.inputs = .op (.bus a) :: rest ∧ (a.width ≠ .w32 ∨ a.addr % 4 ≠ 0))

/-! ## Reset -/

/-- R270: asserting `rst` puts all state at its reset values whatever it was, with fresh traces; while it stays asserted
no tick step and no access takes effect and a read returns 0; releasing it changes nothing else. The model's choices: a
tick passes when no arrival is listed, also under `rst`, where it is as inert as any tick (Log 3, DESIGN CHOICE); an
access of the wrong width or alignment under `rst` is as inert as any other, and a read of that form gives 0 (Log 8,
DEDUCED from R245); at the assertion the parameters, the arrivals and the tick count stay (Log 19, DEDUCED) and rdata is 0
(Log 19, DESIGN CHOICE). -/
def Obligations.ResetAbandonsAndHolds : Prop :=
  (∀ (s : State) (rest : List Input), s.inputs = .rst true :: rest →
    step s = .next { State.resetWith s.params with rst := true, inputs := rest, now := s.now }) ∧
  (∀ (s : State) (rest : List Input), s.inputs = .rst false :: rest →
    step s = .next { s with rst := false, inputs := rest }) ∧
  (∀ (s : State) (pins : BitVec 64) (rest : List Input), s.rst = true →
    (s.inputs = .tick pins :: rest ∨ (s.inputs = [] ∧ rest = [] ∧ pins = Config.freePins s.now)) →
    step s = .next { s with inputs := rest, now := s.now + 1 }) ∧
  (∀ (s : State) (a : Access) (rest : List Input), s.rst = true → s.inputs = .op (.bus a) :: rest →
    addressInBlock s.params a.addr = true →
    step s = .next { s with inputs := rest, rdata := if a.dir = .read then 0 else s.rdata }) ∧
  (∀ (s : State) (e : EngineId) (w : Word) (rest : List Input), s.rst = true → s.inputs = .op (.cmd e w) :: rest →
    engineExists s.params e = true → step s = .next { s with inputs := rest })

/-- R271: what a read of every register returns right after reset, and the hidden and shared state. -/
def Obligations.ResetValues : Prop :=
  ∀ (p : Params) (e : EngineId),
    (∀ rv ∈ ([(.ctrl, 0), (.cfg, 0), (.cmd, 0), (.status, 0), (.attlog, 0), (.resHum, 0), (.resTemp, 0), (.resRaw, 0),
        (.resCsum, 0), (.tSettle, 10000), (.tLow, 18000), (.tRel, 40), (.tResp, 90), (.tRxto, 100000), (.tIdle, 1000),
        (.tRetry, 2000000), (.bitThr, 50), (.capCount, 0), (.capWdata, 0), (.act, 0)] : List (Reg × Word)),
      exec (.regRead e (BitVec.ofNat 9 rv.1.offset)) (State.resetWith p) =
        .next { State.resetWith p with rdata := rv.2 }) ∧
    (∀ k : Fin 64, exec (.regRead e (BitVec.ofNat 9 (0x100 + 4 * k.val))) (State.resetWith p) =
      .next { State.resetWith p with rdata := 0 }) ∧
    (let x := (State.resetWith p).eng e
     x.phase = .idle ∧ x.cnt = 0 ∧ x.rx = 0 ∧ x.attempt = 0 ∧ x.mode = .read ∧ x.curLevel = false ∧ x.curLen = 0 ∧
     x.edgeSeen = false ∧ x.pendValid = false ∧ x.pendHigh = 0 ∧ x.cfgd = false ∧ x.pin = 0 ∧ x.chan = 0 ∧
     x.gpio = ⟨false, false, false⟩ ∧ irq x = false) ∧
    (∀ c, ((State.resetWith p).buf c).count = 0 ∧ ((State.resetWith p).buf c).ovf = false ∧
      (∀ k : Fin 64, ((State.resetWith p).buf c).entries[k.val] = ⟨0, 0⟩) ∧ (State.resetWith p).chanOwnerOf c = none) ∧
    (∀ q, (State.resetWith p).pinOwnerOf q = none)

/-- The reset state meets every invariant of the model. -/
def Obligations.ResetMeetsTheInvariants : Prop :=
  ∀ (p : Params), OwnershipExact (State.resetWith p) ∧ BuffersBounded (State.resetWith p) ∧
    ReservedBitsZero (State.resetWith p) ∧ SequencerConsistent (State.resetWith p) ∧
    ResultsConsistent (State.resetWith p) ∧ WindowsBalanced (State.resetWith p)

/-! ## Commands -/

/-- R101: NOP completes with no effect, even while BUSY. -/
def Obligations.NopHasNoEffect : Prop :=
  ∀ (e : EngineId) (s : State), exec (.nop e) s = .next s

/-- R87: a reserved command word completes, and its only effect is STATUS.CMDERR <- 1, whether or not BUSY. -/
def Obligations.ReservedCommandsOnlySetCmderr : Prop :=
  ∀ (e : EngineId) (low : BitVec 3) (mbz : BitVec 28) (code : BitVec 4) (s : State),
    exec (.reservedCmd7 e) s = .next (s.setEng e { s.eng e with cmderr := true }) ∧
    exec (.reservedCmd8F e low) s = .next (s.setEng e { s.eng e with cmderr := true }) ∧
    exec (.reservedCmdMbz e mbz code) s = .next (s.setEng e { s.eng e with cmderr := true })

/-- R100: the CMD write: a word whose bits 31:4 are not zero or whose code is 7 or more only sets CMDERR; code 0 does
nothing; any other code acts as its command, whose effect while not BUSY starts from DONE and ERR cleared and which is
ignored with CMDERR while BUSY. -/
def Obligations.CmdWriteAcceptance : Prop :=
  ∀ (e : EngineId) (w : Word) (s : State),
    ((w.extractLsb' 4 28 ≠ 0 ∨ 7 ≤ (w.extractLsb' 0 4).toNat) →
      exec (.cmdWrite e w) s = .next (s.setEng e { s.eng e with cmderr := true })) ∧
    (w = 0 → exec (.cmdWrite e w) s = .next s) ∧
    (∀ ci ∈ [((1 : Word), Instr.read e), (2, .transact e), (3, .decode e), (4, .config e), (5, .unconfig e),
        (6, .capclr e)], w = ci.1 →
      exec (.cmdWrite e w) s = exec ci.2 s ∧
      ((s.eng e).busy = true → exec ci.2 s = .next (s.setEng e { s.eng e with cmderr := true })) ∧
      ((s.eng e).busy = false →
        exec ci.2 s = exec ci.2 (s.setEng e { s.eng e with done := false, err := .none }) ∧
        ∃ t, exec ci.2 s = .next t))

/-- The two forms of a command word agree: the CMD write of any word does what its decoded operation does (Log 6). -/
def Obligations.CmdWriteRunsTheDecodedCommand : Prop :=
  ∀ (e : EngineId) (w : Word) (s : State), exec (.cmdWrite e w) s = exec (decodeCommand e w) s

/-- R102: CONFIG on an instance that is not BUSY. The old claim is dropped; if pin and channel are valid and then free,
both are claimed, latched and the buffer emptied, with the warm-up events; otherwise PeripheralConfigError, and the
instance stays unconfigured. -/
def Obligations.ConfigClaimsOrFails : Prop :=
  ∀ (e : EngineId) (s : State), (s.eng e).busy = false →
    let x := s.eng e
    let p : BitVec 6 := x.cfg.extractLsb' 0 6
    let c : BitVec 3 := x.cfg.extractLsb' 8 3
    let ok := p.toNat < s.params.nPins ∧ p.toNat ∈ s.params.validPins ∧ c.toNat < s.params.nChan ∧
      (s.chanOwnerOf c = none ∨ (x.cfgd = true ∧ x.chan = c)) ∧
      (s.pinOwnerOf p = none ∨ (x.cfgd = true ∧ x.pin = p))
    ∃ t, exec (.config e) s = .next t ∧ SameOutside e s t ∧
      (ok →
        t.eng e = { x with
          resHum := 0, resTemp := 0, resRaw := 0, resCsum := 0, valid := false, tneg := false,
          pin := p, chan := c, cfgd := true, phase := .idle, busy := false, done := true, err := .none,
          trace := x.trace ++ [.capStart c, .capStop c, .cmdDone .none] } ∧
        t.chanOwnerOf c = some e ∧ t.pinOwnerOf p = some e ∧
        (∀ d, d ≠ c → t.chanOwnerOf d = if x.cfgd = true ∧ x.chan = d then none else s.chanOwnerOf d) ∧
        (∀ q, q ≠ p → t.pinOwnerOf q = if x.cfgd = true ∧ x.pin = q then none else s.pinOwnerOf q) ∧
        t.buf c = { s.buf c with count := 0, ovf := false } ∧ SameBuffersBut c s t) ∧
      (¬ ok →
        t.eng e = { x with
          resHum := 0, resTemp := 0, resRaw := 0, resCsum := 0, valid := false, tneg := false,
          cfgd := false, phase := .idle, busy := false, done := true, err := .peripheralConfigError,
          trace := x.trace ++ [.cmdDone .peripheralConfigError] } ∧
        (∀ d, t.chanOwnerOf d = if x.cfgd = true ∧ x.chan = d then none else s.chanOwnerOf d) ∧
        (∀ q, t.pinOwnerOf q = if x.cfgd = true ∧ x.pin = q then none else s.pinOwnerOf q) ∧
        SameBuffers s t)

/-- R103: UNCONFIG on an instance that is not BUSY releases channel and pin, sets the drive to (0, 0, 0) and succeeds,
configured or not; the buffer entries are not erased. -/
def Obligations.UnconfigReleases : Prop :=
  ∀ (e : EngineId) (s : State), (s.eng e).busy = false →
    let x := s.eng e
    ∃ t, exec (.unconfig e) s = .next t ∧ SameOutside e s t ∧
      t.eng e = { x with
        resHum := 0, resTemp := 0, resRaw := 0, resCsum := 0, valid := false, tneg := false,
        cfgd := false, gpio := ⟨false, false, false⟩, phase := .idle, busy := false, done := true, err := .none,
        trace := x.trace ++ [.gpio ⟨false, false, false⟩, .cmdDone .none] } ∧
      (∀ d, t.chanOwnerOf d = if x.cfgd = true ∧ x.chan = d then none else s.chanOwnerOf d) ∧
      (∀ q, t.pinOwnerOf q = if x.cfgd = true ∧ x.pin = q then none else s.pinOwnerOf q) ∧
      SameBuffers s t

/-- R104: CAPCLR on an instance that is not BUSY empties the owned buffer (entries kept, results kept), or fails with
PeripheralConfigError when unconfigured. -/
def Obligations.CapclrEmptiesTheOwnedBuffer : Prop :=
  ∀ (e : EngineId) (s : State), (s.eng e).busy = false →
    let x := s.eng e
    (x.cfgd = true →
      exec (.capclr e) s = .next ((s.setBuf x.chan { s.buf x.chan with count := 0, ovf := false }).setEng e
        { x with phase := .idle, busy := false, done := true, err := .none,
                 trace := x.trace ++ [.cmdDone .none] })) ∧
    (x.cfgd = false →
      exec (.capclr e) s = .next (s.setEng e
        { x with phase := .idle, busy := false, done := true, err := .peripheralConfigError,
                 trace := x.trace ++ [.cmdDone .peripheralConfigError] }))

/-- R105: DECODE on an instance that is not BUSY decodes the first `count` entries of the owned buffer and publishes a
success (R196); on a failure, or unconfigured, the results are 0 and VALID is 0 (R197). Nothing else changes, the buffer
not either. -/
def Obligations.DecodeCommandPublishesOrClears : Prop :=
  ∀ (e : EngineId) (s : State), (s.eng e).busy = false →
    let x := s.eng e
    let b := s.buf x.chan
    let r := decodeFrame (b.entries.toList.take b.count) (x.cfg.getLsbD 16) (x.cfg.getLsbD 17)
      (x.bitThr.extractLsb' 0 16)
    (x.cfgd = false → exec (.decode e) s = .next (s.setEng e
      { x with resHum := 0, resTemp := 0, resRaw := 0, resCsum := 0, valid := false, tneg := false,
               phase := .idle, busy := false, done := true, err := .peripheralConfigError,
               trace := x.trace ++ [.cmdDone .peripheralConfigError] })) ∧
    (x.cfgd = true → r = .insufficientData → exec (.decode e) s = .next (s.setEng e
      { x with resHum := 0, resTemp := 0, resRaw := 0, resCsum := 0, valid := false, tneg := false,
               phase := .idle, busy := false, done := true, err := .insufficientData,
               trace := x.trace ++ [.cmdDone .insufficientData] })) ∧
    (x.cfgd = true → r = .checksumError → exec (.decode e) s = .next (s.setEng e
      { x with resHum := 0, resTemp := 0, resRaw := 0, resCsum := 0, valid := false, tneg := false,
               phase := .idle, busy := false, done := true, err := .checksumError,
               trace := x.trace ++ [.cmdDone .checksumError] })) ∧
    (∀ f, x.cfgd = true → r = .ok f → exec (.decode e) s = .next (s.setEng e
      { x with resHum := BitVec.ofInt 32 f.hum, resTemp := BitVec.ofInt 32 f.temp, resRaw := f.h ++ f.t,
               resCsum := f.c, valid := true, tneg := f.tneg,
               phase := .idle, busy := false, done := true, err := .none,
               trace := x.trace ++ [.cmdDone .none] }))

/-- R106, R107, R130: READ and TRANSACT accepted on a configured instance that is not BUSY start attempt 1: BUSY, the
attempt log and the results cleared, the pin an input with pull-up, phase SETTLE; unconfigured they complete at once with
PeripheralConfigError, no attempt and no attempt event (R226). Nothing else changes. -/
def Obligations.ReadAndTransactStartAttemptOne : Prop :=
  ∀ (e : EngineId) (s : State), (s.eng e).busy = false →
    let x := s.eng e
    (x.cfgd = true →
      (∀ im ∈ [(Instr.read e, Mode.read), (.transact e, .transact)],
        exec im.1 s = .next (s.setEng e
          { x with attempt := 1, attlog := ⟨0, 0, 0⟩, mode := im.2, busy := true, done := false, err := .none,
                   resHum := 0, resTemp := 0, resRaw := 0, resCsum := 0, valid := false, tneg := false,
                   gpio := ⟨false, false, true⟩, phase := .settle, cnt := 0,
                   trace := x.trace ++ [.attBegin 1, .gpio ⟨false, false, true⟩] }))) ∧
    (x.cfgd = false →
      (∀ i ∈ [Instr.read e, .transact e],
        exec i s = .next (s.setEng e
          { x with attempt := 0, attlog := ⟨0, 0, 0⟩, busy := false, done := true, err := .peripheralConfigError,
                   resHum := 0, resTemp := 0, resRaw := 0, resCsum := 0, valid := false, tneg := false,
                   phase := .idle, trace := x.trace ++ [.cmdDone .peripheralConfigError] })))

/-! ## Register writes and reads -/

/-- R108 (the sentence on RW registers in R65 says the same): a configuration write completes; while not BUSY it stores the
writable fields of the word and does nothing else; while BUSY it stores nothing and sets WERR. -/
def Obligations.ConfigurationWritesStoreOrFlag : Prop :=
  ∀ (e : EngineId) (d : Word) (s : State),
    let x := s.eng e
    (x.busy = false →
      exec (.wrCtrl e d) s = .next (s.setEng e { x with ctrl := d &&& 0x00000001 }) ∧
      exec (.wrCfg e d) s = .next (s.setEng e { x with cfg := d &&& 0x0003073F }) ∧
      exec (.wrTSettle e d) s = .next (s.setEng e { x with tSettle := d }) ∧
      exec (.wrTLow e d) s = .next (s.setEng e { x with tLow := d }) ∧
      exec (.wrTRel e d) s = .next (s.setEng e { x with tRel := d }) ∧
      exec (.wrTResp e d) s = .next (s.setEng e { x with tResp := d }) ∧
      exec (.wrTRxto e d) s = .next (s.setEng e { x with tRxto := d }) ∧
      exec (.wrTIdle e d) s = .next (s.setEng e { x with tIdle := d &&& 0x0000FFFF }) ∧
      exec (.wrTRetry e d) s = .next (s.setEng e { x with tRetry := d }) ∧
      exec (.wrBitThr e d) s = .next (s.setEng e { x with bitThr := d &&& 0x0000FFFF })) ∧
    (x.busy = true →
      ∀ i ∈ [Instr.wrCtrl e d, .wrCfg e d, .wrTSettle e d, .wrTLow e d, .wrTRel e d, .wrTResp e d, .wrTRxto e d,
        .wrTIdle e d, .wrTRetry e d, .wrBitThr e d],
        exec i s = .next (s.setEng e { x with werr := true }))

/-- R108, R111: what a configuration write stored while not BUSY is what a read of that register returns. -/
def Obligations.ConfigurationReadsBack : Prop :=
  ∀ (e : EngineId) (d : Word) (s t u : State) (i : Instr) (r : Reg) (m : Word),
    (s.eng e).busy = false →
    (i, r, m) ∈ [(Instr.wrCtrl e d, Reg.ctrl, (0x00000001 : Word)), (.wrCfg e d, .cfg, 0x0003073F),
      (.wrTSettle e d, .tSettle, 0xFFFFFFFF), (.wrTLow e d, .tLow, 0xFFFFFFFF), (.wrTRel e d, .tRel, 0xFFFFFFFF),
      (.wrTResp e d, .tResp, 0xFFFFFFFF), (.wrTRxto e d, .tRxto, 0xFFFFFFFF), (.wrTIdle e d, .tIdle, 0x0000FFFF),
      (.wrTRetry e d, .tRetry, 0xFFFFFFFF), (.wrBitThr e d, .bitThr, 0x0000FFFF)] →
    exec i s = .next t → exec (.regRead e (BitVec.ofNat 9 r.offset)) t = .next u → u.rdata = d &&& m

/-- R109, R83: a STATUS write completes; it clears DONE, CMDERR and WERR where bits 1, 12 and 13 are 1 and changes nothing
else, BUSY or not; clearing DONE drops irq. -/
def Obligations.StatusWriteClearsItsFlags : Prop :=
  ∀ (e : EngineId) (d : Word) (s : State),
    exec (.statusW1c e d) s = .next (s.setEng e { s.eng e with
      done := if d.getLsbD 1 then false else (s.eng e).done
      cmderr := if d.getLsbD 12 then false else (s.eng e).cmderr
      werr := if d.getLsbD 13 then false else (s.eng e).werr }) ∧
    (d.getLsbD 1 = true → ∃ t, exec (.statusW1c e d) s = .next t ∧ irq (t.eng e) = false)

/-- R110: a CAP_WDATA write completes: WERR while BUSY or unconfigured; else one sample (high 15:0, low 31:16) is stored at
entry `count` below CAP_DEPTH, or dropped with OVF. Nothing else changes. -/
def Obligations.CapWdataAppendsOneSample : Prop :=
  ∀ (e : EngineId) (d : Word) (s : State),
    let x := s.eng e
    let b := s.buf x.chan
    ((x.busy = true ∨ x.cfgd = false) →
      exec (.capWdataWrite e d) s = .next (s.setEng e { x with werr := true })) ∧
    (x.busy = false → x.cfgd = true → b.count < s.params.capDepth →
      exec (.capWdataWrite e d) s = .next (s.setBuf x.chan
        { b with entries := b.entries.setIfInBounds b.count ⟨d.extractLsb' 0 16, d.extractLsb' 16 16⟩,
                 count := b.count + 1 })) ∧
    (x.busy = false → x.cfgd = true → s.params.capDepth ≤ b.count →
      exec (.capWdataWrite e d) s = .next (s.setBuf x.chan { b with ovf := true }))

/-- R112: a write to a read-only register completes with no effect and no flag, BUSY or not; a STATUS write changes DONE,
CMDERR and WERR at most, so STATUS's read-only fields ignore writes too. -/
def Obligations.ReadOnlyWritesHaveNoEffect : Prop :=
  ∀ (e : EngineId) (k : Fin 64) (d : Word) (s : State),
    (∀ i ∈ [Instr.roWriteAttlog e d, .roWriteResHum e d, .roWriteResTemp e d, .roWriteResRaw e d, .roWriteResCsum e d,
      .roWriteCapCount e d, .roWriteAct e d, .roWriteCapData e k d], exec i s = .next s) ∧
    (∃ dn ce we, exec (.statusW1c e d) s = .next (s.setEng e { s.eng e with done := dn, cmderr := ce, werr := we }))

/-- R63: a write to a reserved offset completes with no effect; a read of one returns 0. -/
def Obligations.ReservedOffsetsReadZeroAndIgnoreWrites : Prop :=
  ∀ (e : EngineId) (off : BitVec 9) (d : Word) (s : State), offsetReserved s.params off = true →
    exec (.reservedWrite e off d) s = .next s ∧
    exec (.regRead e off) s = .next { s with rdata := 0 }

/-- R111, R64: what a read of each register returns, with no side effect: the read changes the returned word only. -/
def Obligations.ReadsReturnTheRegisters : Prop :=
  ∀ (e : EngineId) (s : State),
    let x := s.eng e
    let b := s.buf x.chan
    (∀ rv ∈ ([(.ctrl, x.ctrl &&& 0x00000001), (.cfg, x.cfg &&& 0x0003073F), (.cmd, 0),
        (.status, 0#9 ++ x.phase.code ++ 0#2 ++ x.attempt ++ 0#2 ++ BitVec.ofBool x.werr ++ BitVec.ofBool x.cmderr ++
          0#2 ++ BitVec.ofBool (x.cfgd && b.ovf) ++ BitVec.ofBool x.tneg ++ 0#1 ++ x.err.code ++
          BitVec.ofBool x.cfgd ++ BitVec.ofBool x.valid ++ BitVec.ofBool x.done ++ BitVec.ofBool x.busy),
        (.attlog, 0#20 ++ x.attlog.a3 ++ x.attlog.a2 ++ x.attlog.a1),
        (.resHum, x.resHum), (.resTemp, x.resTemp), (.resRaw, x.resRaw), (.resCsum, 0#24 ++ x.resCsum),
        (.tSettle, x.tSettle), (.tLow, x.tLow), (.tRel, x.tRel), (.tResp, x.tResp), (.tRxto, x.tRxto),
        (.tIdle, x.tIdle &&& 0x0000FFFF), (.tRetry, x.tRetry), (.bitThr, x.bitThr &&& 0x0000FFFF),
        (.capCount, if x.cfgd then 0#16 ++ BitVec.ofNat 16 b.count else 0), (.capWdata, 0),
        (.act, if x.cfgd then 0#21 ++ x.chan ++ 0#2 ++ x.pin else 0)] : List (Reg × Word)),
      exec (.regRead e (BitVec.ofNat 9 rv.1.offset)) s = .next { s with rdata := rv.2 }) ∧
    (∀ k : Fin 64, k.val < s.params.capDepth →
      exec (.regRead e (BitVec.ofNat 9 (0x100 + 4 * k.val))) s = .next { s with rdata :=
        if x.cfgd = true ∧ k.val < b.count then b.entries[k.val].low ++ b.entries[k.val].high else 0 })

/-- R25: the positions of the STATUS fields in the word a read of STATUS returns, and R52: irq is DONE and CTRL.IE. R43: the
code of each phase in STATUS.PHASE. R240: the code of each error in STATUS.ERR, and the same zero-extended to the 4 bits
of an ATTLOG field. -/
def Obligations.StatusFieldPositions : Prop :=
  ∀ (x : Engine) (b : CapBuf),
    let w := statusWord x b
    w.getLsbD 0 = x.busy ∧ w.getLsbD 1 = x.done ∧ w.getLsbD 2 = x.valid ∧ w.getLsbD 3 = x.cfgd ∧
    w.extractLsb' 4 3 = x.err.code ∧ w.getLsbD 7 = false ∧ w.getLsbD 8 = x.tneg ∧
    w.getLsbD 9 = (x.cfgd && b.ovf) ∧ w.extractLsb' 10 2 = 0 ∧ w.getLsbD 12 = x.cmderr ∧ w.getLsbD 13 = x.werr ∧
    w.extractLsb' 14 2 = 0 ∧ w.extractLsb' 16 2 = x.attempt ∧ w.extractLsb' 18 2 = 0 ∧
    w.extractLsb' 20 3 = x.phase.code ∧ w.extractLsb' 23 9 = 0 ∧
    irq x = (w.getLsbD 1 && x.ctrl.getLsbD 0) ∧
    (∀ pc ∈ ([(.idle, 0), (.settle, 1), (.startLow, 2), (.relWait, 3), (.respWait, 4), (.capture, 5),
        (.retryWait, 6)] : List (Phase × BitVec 3)),
      (statusWord { x with phase := pc.1 } b).extractLsb' 20 3 = pc.2) ∧
    (∀ ec ∈ ([(.none, 0), (.peripheralConfigError, 1), (.noResponse, 2), (.captureTimeout, 3), (.insufficientData, 4),
        (.checksumError, 5), (.totalFailure, 6)] : List (ErrCode × BitVec 3)),
      (statusWord { x with err := ec.1 } b).extractLsb' 4 3 = ec.2 ∧ ec.1.field = 0#1 ++ ec.2)

/-! ## The start sequence and the retry machine -/

/-- R142: an IDLE instance's tick step leaves all of its state unchanged, and a tick in which every instance is IDLE only
passes. -/
def Obligations.IdleTicksChangeNothing : Prop :=
  (∀ (s : State) (pins : BitVec 64) (e : EngineId), (s.eng e).phase = .idle → tickEngine pins e s = s) ∧
  (∀ (s : State) (pins : BitVec 64), (∀ e, engineExists s.params e = true → (s.eng e).phase = .idle) →
    tickPulse pins s = { s with now := s.now + 1 })

/-- R131, R132, R133, R136: the three timed phases last exactly max1 of their register, drive the pin as the start signal
asks, and change nothing else. -/
def Obligations.StartSequencePhases : Prop :=
  ∀ (s : State) (pins : BitVec 64) (e : EngineId),
    let x := s.eng e
    (x.phase = .settle → tickEngine pins e s = s.setEng e
      (if max x.tSettle.toNat 1 ≤ x.cnt.toNat + 1 then
        { x with gpio := ⟨true, false, true⟩, phase := .startLow, cnt := 0,
                 trace := x.trace ++ [.gpio ⟨true, false, true⟩] }
       else { x with cnt := x.cnt + 1 })) ∧
    (x.phase = .startLow → tickEngine pins e s = s.setEng e
      (if max x.tLow.toNat 1 ≤ x.cnt.toNat + 1 then
        { x with gpio := ⟨false, false, true⟩, phase := .relWait, cnt := 0,
                 trace := x.trace ++ [.gpio ⟨false, false, true⟩] }
       else { x with cnt := x.cnt + 1 })) ∧
    (x.phase = .relWait → tickEngine pins e s = s.setEng e
      (if max x.tRel.toNat 1 ≤ x.cnt.toNat + 1 then { x with phase := .respWait, cnt := 0 }
       else { x with cnt := x.cnt + 1 }))

/-- R134, R160: RESP_WAIT: a high sample opens the capture window in that tick, in which it counts as the first high
sample, also in the last tick of the bound; else max1(T_RESP) low samples end the attempt with NoResponse. -/
def Obligations.ResponseWait : Prop :=
  ∀ (s : State) (pins : BitVec 64) (e : EngineId),
    let x := s.eng e
    let b := s.buf x.chan
    x.phase = .respWait →
    (pins.getLsbD x.pin.toNat = true →
      tickEngine pins e s = (s.setEng e
        { x with phase := .capture, curLevel := true, curLen := 1, edgeSeen := false, pendValid := false,
                 pendHigh := 0, rx := 0, trace := x.trace ++ [.capStart x.chan] }).setBuf x.chan
        { b with count := 0, ovf := false }) ∧
    (pins.getLsbD x.pin.toNat = false →
      tickEngine pins e s = s.setEng e
        (if max x.tResp.toNat 1 ≤ x.cnt.toNat + 1 then
          attemptEnd .noResponse { x with cnt := BitVec.ofNat 32 (min (x.cnt.toNat + 1) 0xFFFFFFFF) }
         else { x with cnt := x.cnt + 1 }))

/-- R222, R130: RETRY_WAIT. One tick of it, from any counter: it counts, and in the tick in which the count reaches
max1(T_RETRY) the next attempt begins: its number, the results cleared, the pin an input with pull-up, phase SETTLE. From
its entry: a tick that enters it leaves the counter at 0, and no operation enters it; from there, for any levels of the pins
(the line is not sampled) and any value of T_RETRY, the wait lasts exactly max1(T_RETRY) ticks: before that nothing of the
instance changes but the counter, and in the last of them the next attempt begins. T_RETRY is 2000000 after reset. The ticks
are counted with no access between them; AttemptsAreNonPreemptible says that an access between them changes none of this.
After attempt 3 the number would wrap to 0: the model's choice (Log 13), in a state that no run reaches. -/
def Obligations.RetryWaitBeginsTheNextAttempt : Prop :=
  (∀ (s : State) (pins : BitVec 64) (e : EngineId),
    let x := s.eng e
    x.phase = .retryWait → tickEngine pins e s = s.setEng e
      (if max x.tRetry.toNat 1 ≤ x.cnt.toNat + 1 then
        { x with attempt := x.attempt + 1, resHum := 0, resTemp := 0, resRaw := 0, resCsum := 0, valid := false,
                 tneg := false, gpio := ⟨false, false, true⟩, phase := .settle, cnt := 0,
                 trace := x.trace ++ [.attBegin (x.attempt + 1), .gpio ⟨false, false, true⟩] }
       else { x with cnt := x.cnt + 1 })) ∧
  (∀ (depth : Nat) (line : Bool) (x : Engine) (b : CapBuf),
    x.phase ≠ .retryWait → (tickUnit depth line x b).1.phase = .retryWait → (tickUnit depth line x b).1.cnt = 0) ∧
  (∀ (i : Instr) (s t : State) (e : EngineId),
    (s.eng e).phase ≠ .retryWait → exec i s = .next t → (t.eng e).phase ≠ .retryWait) ∧
  (∀ (s : State) (e : EngineId) (levels : List (BitVec 64)),
    let x := s.eng e
    let W := max x.tRetry.toNat 1
    let u := (tickRun levels s).eng e
    s.rst = false → engineExists s.params e = true → x.phase = .retryWait → x.cnt = 0 →
    (levels.length < W → u = { x with cnt := BitVec.ofNat 32 levels.length }) ∧
    (levels.length = W → u =
      { x with attempt := x.attempt + 1, resHum := 0, resTemp := 0, resRaw := 0, resCsum := 0, valid := false,
               tneg := false, gpio := ⟨false, false, true⟩, phase := .settle, cnt := 0,
               trace := x.trace ++ [.attBegin (x.attempt + 1), .gpio ⟨false, false, true⟩] })) ∧
  (∀ (p : Params) (e : EngineId), ((State.resetWith p).eng e).tRetry = 2000000)

/-- R221, R225, R227: the end of an attempt: success and a TRANSACT complete the command with the attempt's code; a READ
waits after its first and second failure and completes with TotalFailure after its third; a failure is recorded in the
attempt's own ATTLOG field. -/
def Obligations.AttemptEndDecidesRetry : Prop :=
  ∀ (code : ErrCode) (x : Engine),
    (code = .none → attemptEnd code x = { x with
      phase := .idle, busy := false, done := true, err := .none,
      trace := x.trace ++ [.attEnd x.attempt .none, .cmdDone .none] }) ∧
    (code ≠ .none → x.attempt ≠ 0 →
      let log : AttLog := ⟨if x.attempt = 1 then 0#1 ++ code.code else x.attlog.a1,
        if x.attempt = 2 then 0#1 ++ code.code else x.attlog.a2,
        if x.attempt = 3 then 0#1 ++ code.code else x.attlog.a3⟩
      (x.mode = .transact → attemptEnd code x = { x with
        attlog := log, phase := .idle, busy := false, done := true, err := code,
        trace := x.trace ++ [.attEnd x.attempt code, .cmdDone code] }) ∧
      (x.mode = .read → x.attempt ≠ 3 → attemptEnd code x = { x with
        attlog := log, phase := .retryWait, cnt := 0, trace := x.trace ++ [.attEnd x.attempt code] }) ∧
      (x.mode = .read → x.attempt = 3 → attemptEnd code x = { x with
        attlog := log, phase := .idle, busy := false, done := true, err := .totalFailure,
        trace := x.trace ++ [.attEnd 3 code, .cmdDone .totalFailure] }))

/-! ## Capture -/

/-- R161, R162, R163, R164, R165: a CAPTURE tick. The sample extends the current phase, or ends it: a falling edge keeps
the high duration, a rising edge stores the pair (or drops it with OVF). Then, with an edge seen and the level held for
max1(T_IDLE) samples, the batch is decoded, the window released and stopped once each and the attempt ended with the
decode's code; otherwise max1(T_RXTO) ticks end it with CaptureTimeout in the same way. -/
def Obligations.CaptureTick : Prop :=
  ∀ (s : State) (pins : BitVec 64) (e : EngineId),
    let x := s.eng e
    let b := s.buf x.chan
    let level := pins.getLsbD x.pin.toNat
    let rx' : Word := BitVec.ofNat 32 (min (x.rx.toNat + 1) 0xFFFFFFFF)
    let b' : CapBuf :=
      if level = true ∧ x.curLevel = false ∧ x.pendValid = true then
        (if b.count < s.params.capDepth then
          { b with entries := b.entries.setIfInBounds b.count ⟨x.pendHigh, x.curLen⟩, count := b.count + 1 }
         else { b with ovf := true })
      else b
    let y : Engine :=
      if level = x.curLevel then { x with curLen := BitVec.ofNat 16 (min (x.curLen.toNat + 1) 0xFFFF), rx := rx' }
      else if level = true then
        { x with curLevel := true, curLen := 1, edgeSeen := true, pendValid := false, rx := rx' }
      else
        { x with curLevel := false, curLen := 1, edgeSeen := true, pendValid := true, pendHigh := x.curLen, rx := rx' }
    let closed := [Event.capRelease x.chan, .capStop x.chan]
    x.phase = .capture →
    (y.edgeSeen = true ∧ max (x.tIdle.extractLsb' 0 16).toNat 1 ≤ y.curLen.toNat →
      tickEngine pins e s = (s.setEng e
        (match decodeFrame (b'.entries.toList.take b'.count) (x.cfg.getLsbD 16) (x.cfg.getLsbD 17)
            (x.bitThr.extractLsb' 0 16) with
         | .ok f => attemptEnd .none { y with
             resHum := BitVec.ofInt 32 f.hum, resTemp := BitVec.ofInt 32 f.temp, resRaw := f.h ++ f.t, resCsum := f.c,
             valid := true, tneg := f.tneg, trace := x.trace ++ closed }
         | .insufficientData => attemptEnd .insufficientData { y with trace := x.trace ++ closed }
         | .checksumError => attemptEnd .checksumError { y with trace := x.trace ++ closed })).setBuf x.chan b') ∧
    (¬ (y.edgeSeen = true ∧ max (x.tIdle.extractLsb' 0 16).toNat 1 ≤ y.curLen.toNat) →
      max x.tRxto.toNat 1 ≤ y.rx.toNat →
      tickEngine pins e s =
        (s.setEng e (attemptEnd .captureTimeout { y with trace := x.trace ++ closed })).setBuf x.chan b') ∧
    (¬ (y.edgeSeen = true ∧ max (x.tIdle.extractLsb' 0 16).toNat 1 ≤ y.curLen.toNat) →
      ¬ max x.tRxto.toNat 1 ≤ y.rx.toNat →
      tickEngine pins e s = (s.setEng e y).setBuf x.chan b')

/-! ## The frame decoder -/

/-- R190: fewer than 41 samples are InsufficientData, whatever they hold; otherwise a checksum that differs is
ChecksumError, and an equal one gives H, T, C and their conversion. -/
def Obligations.DecodeChecksLengthThenChecksum : Prop :=
  ∀ (ss : List Sample) (profile bitph : Bool) (thr : Half),
    let h := humidityRaw (frameBit bitph thr ss)
    let t := temperatureRaw (frameBit bitph thr ss)
    let c := checksumField (frameBit bitph thr ss)
    (ss.length < 41 → decodeFrame ss profile bitph thr = .insufficientData) ∧
    (41 ≤ ss.length → c ≠ frameChecksum h t → decodeFrame ss profile bitph thr = .checksumError) ∧
    (41 ≤ ss.length → c = frameChecksum h t →
      decodeFrame ss profile bitph thr =
        .ok ⟨h, t, c, (convert profile h t).1, (convert profile h t).2.1, (convert profile h t).2.2⟩)

/-- R191: frame bit j comes from sample j+1, never from the marker: the low duration, or the high one under BITPH; below
the threshold it is 0, at or above it 1; with threshold 50, 49 is 0 and 50 is 1; with threshold 0 every bit is 1. -/
def Obligations.BitDecision : Prop :=
  (∀ (ss : List Sample) (thr : Half) (j : Nat) (q : Sample), ss[j + 1]? = some q →
    (frameBit false thr ss j = true ↔ thr.toNat ≤ q.low.toNat) ∧
    (frameBit true thr ss j = true ↔ thr.toNat ≤ q.high.toNat)) ∧
  (∀ (h : Half), sampleBit false 50 ⟨h, 49⟩ = false ∧ sampleBit false 50 ⟨h, 50⟩ = true) ∧
  (∀ (ss : List Sample) (bitph : Bool) (j : Nat), frameBit bitph 0 ss j = true)

/-- R192, R89: the fields are gathered most significant bit first: f[0..15] are H's bits 15..0, f[16..31] T's, f[32..39] are
C's bits 7..0. -/
def Obligations.FieldsGatherMsbFirst : Prop :=
  ∀ (f : Nat → Bool),
    (∀ k, k < 16 → (humidityRaw f).getLsbD (15 - k) = f k) ∧
    (∀ k, k < 16 → (temperatureRaw f).getLsbD (15 - k) = f (16 + k)) ∧
    (∀ k, k < 8 → (checksumField f).getLsbD (7 - k) = f (32 + k))

/-- R193: the checksum is the byte sum of the raw fields modulo 256, the sign bit of T in it, and a decode of at least 41
samples whose checksum field differs from it fails with ChecksumError; H = 0x028C and T = 0x8065 give 0x73. -/
def Obligations.ChecksumIsTheByteSum : Prop :=
  (∀ (h t : Half), (frameChecksum h t).toNat =
    ((h.extractLsb' 8 8).toNat + (h.extractLsb' 0 8).toNat + (t.extractLsb' 8 8).toNat + (t.extractLsb' 0 8).toNat) %
      256) ∧
  (∀ (ss : List Sample) (profile bitph : Bool) (thr : Half), 41 ≤ ss.length →
    checksumField (frameBit bitph thr ss) ≠
      frameChecksum (humidityRaw (frameBit bitph thr ss)) (temperatureRaw (frameBit bitph thr ss)) →
    decodeFrame ss profile bitph thr = .checksumError) ∧
  frameChecksum 0x028C 0x8065 = 0x73

/-- R194: PROFILE 0: humidity is H, temperature is T[14:0] with the sign of T[15], in tenths, and TNEG is T[15], also for a
negative zero. -/
def Obligations.ProfileZeroConversion : Prop :=
  ∀ (h t : Half),
    convert false h t = ((h.toNat : Int),
      if t.getLsbD 15 then -((t.extractLsb' 0 15).toNat : Int) else ((t.extractLsb' 0 15).toNat : Int), t.getLsbD 15) ∧
    (-32767 ≤ (convert false h t).2.1 ∧ (convert false h t).2.1 ≤ 32767) ∧
    convert false h 0x8000 = ((h.toNat : Int), 0, true)

/-- R195: PROFILE 1: ten times the high byte plus the low byte for both fields, no sign, 0..2805. -/
def Obligations.ProfileOneConversion : Prop :=
  ∀ (h t : Half),
    convert true h t = (10 * ((h.extractLsb' 8 8).toNat : Int) + ((h.extractLsb' 0 8).toNat : Int),
      10 * ((t.extractLsb' 8 8).toNat : Int) + ((t.extractLsb' 0 8).toNat : Int), false) ∧
    0 ≤ (convert true h t).1 ∧ (convert true h t).1 ≤ 2805 ∧
    0 ≤ (convert true h t).2.1 ∧ (convert true h t).2.1 ≤ 2805

/-- R198: samples after the 41st and the marker take no part in a decode. -/
def Obligations.MarkerAndExtraSamplesAreIgnored : Prop :=
  ∀ (ss ss' : List Sample) (profile bitph : Bool) (thr : Half),
    41 ≤ ss.length → 41 ≤ ss'.length → (∀ j, 1 ≤ j → j ≤ 40 → ss[j]? = ss'[j]?) →
    decodeFrame ss profile bitph thr = decodeFrame ss' profile bitph thr

/-- R200: the round-trip law: 41 samples that encode H, T and their checksum decode to exactly H, T, C and the conversion
under the profile, whatever the marker; and with thr >= 1 there are such samples. -/
def Obligations.FrameRoundTrip : Prop :=
  ∀ (profile bitph : Bool) (thr h t : Half),
    let frame : BitVec 40 := h ++ t ++ frameChecksum h t
    (∀ (marker : Sample) (body : List Sample), body.length = 40 →
      (∀ j q, body[j]? = some q → sampleBit bitph thr q = frame.getLsbD (39 - j)) →
      decodeFrame (marker :: body) profile bitph thr =
        .ok ⟨h, t, frameChecksum h t, (convert profile h t).1, (convert profile h t).2.1, (convert profile h t).2.2⟩) ∧
    (1 ≤ thr.toNat → ∃ body : List Sample, body.length = 40 ∧
      ∀ j q, body[j]? = some q → sampleBit bitph thr q = frame.getLsbD (39 - j))

/-- R201: flipping exactly one of the 40 frame bits of samples that decode gives ChecksumError and never a value; two
flipped bits can escape. -/
def Obligations.SingleBitCorruptionIsRejected : Prop :=
  (∀ (ss ss' : List Sample) (profile bitph : Bool) (thr : Half) (f : Frame) (j : Nat),
    decodeFrame ss profile bitph thr = .ok f → 41 ≤ ss'.length → j < 40 →
    (∀ k, k < 40 → frameBit bitph thr ss' k = if k = j then !frameBit bitph thr ss k else frameBit bitph thr ss k) →
    decodeFrame ss' profile bitph thr = .checksumError) ∧
  frameChecksum 0x0100 0x0000 = 0x01 ∧ frameChecksum 0x0001 0x0000 = 0x01

/-! ## Timing laws -/

/-- R135: the timeline of an attempt from its first SETTLE tick on, whatever else the block does in those ticks: SETTLE for
S ticks, START_LOW for L, REL_WAIT for Rl; then RESP_WAIT while the samples are low, the capture in the tick of the first
high sample, or NoResponse in the Rp-th low one. -/
def Obligations.AttemptTimeline : Prop :=
  ∀ (s : State) (e : EngineId) (levels : List (BitVec 64)),
    let x := s.eng e
    let S := max x.tSettle.toNat 1
    let L := max x.tLow.toNat 1
    let R := max x.tRel.toNat 1
    let P := max x.tResp.toNat 1
    let n := levels.length
    let u := (tickRun levels s).eng e
    s.rst = false → engineExists s.params e = true → x.phase = .settle → x.cnt = 0 →
    (n < S → u.phase = .settle) ∧
    (S ≤ n → n < S + L → u.phase = .startLow ∧ u.gpio = ⟨true, false, true⟩) ∧
    (S + L ≤ n → n < S + L + R → u.phase = .relWait ∧ u.gpio = ⟨false, false, true⟩) ∧
    (S + L + R ≤ n → n < S + L + R + P →
      (∀ pins ∈ levels.drop (S + L + R), pins.getLsbD x.pin.toNat = false) → u.phase = .respWait) ∧
    (S + L + R < n → n ≤ S + L + R + P →
      (∀ pins ∈ (levels.drop (S + L + R)).dropLast, pins.getLsbD x.pin.toNat = false) →
      (∀ pins, levels.getLast? = some pins → pins.getLsbD x.pin.toNat = true) →
      u.phase = .capture ∧ u.curLen = 1 ∧ u.rx = 0) ∧
    (n = S + L + R + P → (∀ pins ∈ levels.drop (S + L + R), pins.getLsbD x.pin.toNat = false) →
      (u.phase = .idle ∨ u.phase = .retryWait) ∧
      (x.trace ++ [.gpio ⟨true, false, true⟩, .gpio ⟨false, false, true⟩, .attEnd x.attempt .noResponse]) <+: u.trace)

/-- R224, R228: a READ whose every attempt meets a low line: from the command on, whatever the other instances do, exactly
three attempts of S + L + Rl + Rp ticks and two waits of W ticks; BUSY until the last tick and then TotalFailure with three
NoResponse in ATTLOG, no reading, and exactly this trace. -/
def Obligations.ReadOnALowLineFailsAfterThreeAttempts : Prop :=
  ∀ (s : State) (e : EngineId) (levels : List (BitVec 64)),
    let x := s.eng e
    let D := max x.tSettle.toNat 1 + max x.tLow.toNat 1 + max x.tRel.toNat 1 + max x.tResp.toNat 1
    let W := max x.tRetry.toNat 1
    s.rst = false → engineExists s.params e = true → x.busy = false → x.cfgd = true →
    (∀ pins ∈ levels, pins.getLsbD x.pin.toNat = false) →
    s.inputs = .op (.cmd e 0x1) :: levels.map .tick →
    (∀ n, n < 3 * D + 2 * W → n ≤ levels.length → ∃ u, RunsTo (1 + n) s u ∧ (u.eng e).busy = true) ∧
    (levels.length = 3 * D + 2 * W →
      ∃ t, RunsTo (1 + levels.length) s t ∧
        (t.eng e).busy = false ∧ (t.eng e).phase = .idle ∧ (t.eng e).done = true ∧
        (t.eng e).err = .totalFailure ∧ (t.eng e).attlog = ⟨2, 2, 2⟩ ∧ (t.eng e).attempt = 3 ∧
        (t.eng e).valid = false ∧ (t.eng e).resHum = 0 ∧ (t.eng e).resTemp = 0 ∧
        (t.eng e).trace = x.trace ++
          [.attBegin 1, .gpio ⟨false, false, true⟩, .gpio ⟨true, false, true⟩, .gpio ⟨false, false, true⟩,
           .attEnd 1 .noResponse,
           .attBegin 2, .gpio ⟨false, false, true⟩, .gpio ⟨true, false, true⟩, .gpio ⟨false, false, true⟩,
           .attEnd 2 .noResponse,
           .attBegin 3, .gpio ⟨false, false, true⟩, .gpio ⟨true, false, true⟩, .gpio ⟨false, false, true⟩,
           .attEnd 3 .noResponse, .cmdDone .totalFailure])

/-- R164, R281: with the line high from the first RESP_WAIT tick on (an absent sensor under the pull-up; what the line is
in the ticks before, in START_LOW under the block's own drive, does not matter), an attempt ends with CaptureTimeout after
exactly S + L + Rl + X + 1 ticks, and not before, its window released and stopped once. -/
def Obligations.AbsentSensorTimesOut : Prop :=
  ∀ (s : State) (e : EngineId) (levels : List (BitVec 64)),
    let x := s.eng e
    let D := max x.tSettle.toNat 1 + max x.tLow.toNat 1 + max x.tRel.toNat 1
    let X := max x.tRxto.toNat 1
    let u := (tickRun levels s).eng e
    s.rst = false → engineExists s.params e = true → x.phase = .settle → x.cnt = 0 →
    (∀ pins ∈ levels.drop D, pins.getLsbD x.pin.toNat = true) →
    (levels.length < D + X + 1 → u.phase ≠ .idle ∧ u.phase ≠ .retryWait) ∧
    (D < levels.length → levels.length < D + X + 1 → u.phase = .capture) ∧
    (levels.length = D + X + 1 →
      (u.phase = .idle ∨ u.phase = .retryWait) ∧
      (x.trace ++ [.gpio ⟨true, false, true⟩, .gpio ⟨false, false, true⟩, .capStart x.chan, .capRelease x.chan,
        .capStop x.chan, .attEnd x.attempt .captureTimeout]) <+: u.trace)

/-- R168: the waveform law, on one instance and its buffer. `ps` are the high and low phases from the tick of the first high
sample on, each low ended by a rising edge, and then the line stays high. If every phase but the first high is shorter than
max1(T_IDLE) and none is longer than 0xFFFF, the capture records exactly those pairs in order, up to CAP_DEPTH and then OVF;
it completes max1(T_IDLE) - 1 ticks after the last rising edge if that is within max1(T_RXTO) ticks of the start, and
otherwise times out max1(T_RXTO) ticks after the start. -/
def Obligations.WaveformIsRecorded : Prop :=
  ∀ (depth : Nat) (x : Engine) (b : CapBuf) (ps : List (Nat × Nat)),
    let I := max (x.tIdle.extractLsb' 0 16).toNat 1
    let X := max x.tRxto.toNat 1
    let wave := ps.flatMap (fun hl => List.replicate hl.1 true ++ List.replicate hl.2 false) ++ List.replicate I true
    let last := ps.foldl (fun b hl => CapBuf.push depth b ⟨BitVec.ofNat 16 hl.1, BitVec.ofNat 16 hl.2⟩)
      { b with count := 0, ovf := false }
    let code := (decodeFrame (last.entries.toList.take last.count) (x.cfg.getLsbD 16) (x.cfg.getLsbD 17)
      (x.bitThr.extractLsb' 0 16)).code
    x.phase = .respWait → ps ≠ [] →
    (∀ hl ∈ ps, 1 ≤ hl.1 ∧ hl.1 ≤ 0xFFFF ∧ 1 ≤ hl.2 ∧ hl.2 < I) → (∀ hl ∈ ps.tail, hl.1 < I) →
    (wave.length - 1 ≤ X →
      (∀ n, 1 ≤ n → n < wave.length → (unitRun depth (wave.take n) x b).1.phase = .capture) ∧
      (unitRun depth wave x b).2 = last ∧
      ((unitRun depth wave x b).1.phase = .idle ∨ (unitRun depth wave x b).1.phase = .retryWait) ∧
      (x.trace ++ [.capStart x.chan, .capRelease x.chan, .capStop x.chan, .attEnd x.attempt code]) <+:
        (unitRun depth wave x b).1.trace) ∧
    (X < wave.length - 1 →
      (∀ n, 1 ≤ n → n < X + 1 → (unitRun depth (wave.take n) x b).1.phase = .capture) ∧
      ((unitRun depth (wave.take (X + 1)) x b).1.phase = .idle ∨
        (unitRun depth (wave.take (X + 1)) x b).1.phase = .retryWait) ∧
      (x.trace ++ [.capStart x.chan, .capRelease x.chan, .capStop x.chan, .attEnd x.attempt .captureTimeout]) <+:
        (unitRun depth (wave.take (X + 1)) x b).1.trace)

/-- R168, R165, R196, R200, R223: from the wire to the registers. A waveform of at least 41 pairs whose entries 1 to 40 carry
the bits of (H, T, checksum) under CFG.BITPH and BIT_THR, completed within the window, ends a READ or a TRANSACT at once
with success: VALID, the exact conversion under CFG.PROFILE, the raw fields and their checksum. -/
def Obligations.GoodFrameIsDelivered : Prop :=
  ∀ (depth : Nat) (x : Engine) (b : CapBuf) (ps : List (Nat × Nat)) (h t : Half),
    let I := max (x.tIdle.extractLsb' 0 16).toNat 1
    let X := max x.tRxto.toNat 1
    let wave := ps.flatMap (fun hl => List.replicate hl.1 true ++ List.replicate hl.2 false) ++ List.replicate I true
    let frame : BitVec 40 := h ++ t ++ frameChecksum h t
    let value := convert (x.cfg.getLsbD 16) h t
    let u := (unitRun depth wave x b).1
    x.phase = .respWait → 41 ≤ depth → 41 ≤ ps.length →
    (∀ hl ∈ ps, 1 ≤ hl.1 ∧ hl.1 ≤ 0xFFFF ∧ 1 ≤ hl.2 ∧ hl.2 < I) → (∀ hl ∈ ps.tail, hl.1 < I) →
    wave.length - 1 ≤ X →
    (∀ j, j < 40 → ∀ hl, ps[j + 1]? = some hl →
      sampleBit (x.cfg.getLsbD 17) (x.bitThr.extractLsb' 0 16) ⟨BitVec.ofNat 16 hl.1, BitVec.ofNat 16 hl.2⟩ =
        frame.getLsbD (39 - j)) →
    u.phase = .idle ∧ u.busy = false ∧ u.done = true ∧ u.err = .none ∧ u.valid = true ∧
    u.resHum = BitVec.ofInt 32 value.1 ∧ u.resTemp = BitVec.ofInt 32 value.2.1 ∧ u.tneg = value.2.2 ∧
    u.resRaw = h ++ t ∧ u.resCsum = frameChecksum h t ∧ u.attlog = x.attlog ∧ u.attempt = x.attempt

/-! ## Rules of the whole block -/

/-- R137, R280: while an instance is BUSY no operation of any instance changes the course of its phases: of its state only
CMDERR, WERR and DONE may change, and its claim and its buffer stay. -/
def Obligations.AttemptsAreNonPreemptible : Prop :=
  ∀ (i : Instr) (s t : State) (e : EngineId), OwnershipExact s → (s.eng e).phaseOk → (s.eng e).busy = true →
    exec i s = .next t →
    (∃ ce we dn, t.eng e = { s.eng e with cmderr := ce, werr := we, done := dn }) ∧
    t.buf (s.eng e).chan = s.buf (s.eng e).chan ∧
    t.chanOwnerOf (s.eng e).chan = some e ∧ t.pinOwnerOf (s.eng e).pin = some e ∧ t.params = s.params ∧ t.rst = s.rst

/-- R251, R253: an operation that addresses one instance leaves every other instance's state alone, and the buffer of
every other configured instance. -/
def Obligations.OtherInstancesAreUntouched : Prop :=
  ∀ (i : Instr) (s t : State) (e f : EngineId), engineOf i = some e → f ≠ e → exec i s = .next t →
    t.eng f = s.eng f ∧
    (OwnershipExact s → (s.eng f).cfgd = true →
      t.buf (s.eng f).chan = s.buf (s.eng f).chan ∧ t.chanOwnerOf (s.eng f).chan = some f ∧
      t.pinOwnerOf (s.eng f).pin = some f)

/-- R48, R49: the claim state and the owner tables are written only by CONFIG, UNCONFIG and reset: no tick and no other
operation changes them. -/
def Obligations.ClaimsChangeOnlyByConfigAndUnconfig : Prop :=
  (∀ (i : Instr) (s t : State), exec i s = .next t →
    (∀ e, i ≠ .config e ∧ i ≠ .unconfig e ∧ i ≠ .cmdWrite e 4 ∧ i ≠ .cmdWrite e 5) →
    SameOwners s t ∧ ∀ f, (t.eng f).cfgd = (s.eng f).cfgd ∧ (t.eng f).pin = (s.eng f).pin ∧
      (t.eng f).chan = (s.eng f).chan) ∧
  (∀ (s : State) (pins : BitVec 64),
    SameOwners s (tickPulse pins s) ∧ ∀ f, ((tickPulse pins s).eng f).cfgd = (s.eng f).cfgd ∧
      ((tickPulse pins s).eng f).pin = (s.eng f).pin ∧ ((tickPulse pins s).eng f).chan = (s.eng f).chan)

/-! ## Invariants that every step keeps -/

/-- R50: the owner tables name exactly the configured instances, after every step. -/
def Obligations.StepKeepsOwnership : Prop :=
  ∀ (s t : State), OwnershipExact s → step s = .next t → OwnershipExact t

/-- R50: so at most one instance owns a channel or a pin. -/
def Obligations.OwnersAreExclusive : Prop :=
  ∀ (s : State) (e f : EngineId), OwnershipExact s → (s.eng e).cfgd = true → (s.eng f).cfgd = true →
    ((s.eng e).chan = (s.eng f).chan ∨ (s.eng e).pin = (s.eng f).pin) → e = f

/-- R49: no buffer ever holds more than CAP_DEPTH samples. -/
def Obligations.StepKeepsBuffersBounded : Prop :=
  ∀ (s t : State), BuffersBounded s → step s = .next t → BuffersBounded t

/-- R21: reserved bits of the configuration registers stay 0. -/
def Obligations.StepKeepsReservedBitsZero : Prop :=
  ∀ (s t : State), ReservedBitsZero s → step s = .next t → ReservedBitsZero t

/-- R43, R46, R51, R54, R162: the sequencer stays consistent: BUSY exactly outside IDLE, attempts 1..3, the line never driven
high and driven low exactly in START_LOW, counters below their limits, captures alternating from a high phase. -/
def Obligations.StepKeepsSequencerConsistent : Prop :=
  ∀ (s t : State), SequencerConsistent s → step s = .next t → SequencerConsistent t

/-- R25, R27-R30, R197: without VALID the results are 0; with VALID, RES_CSUM is the checksum of RES_RAW; while BUSY there is
no reading. -/
def Obligations.StepKeepsResultsConsistent : Prop :=
  ∀ (s t : State), ResultsConsistent s → step s = .next t → ResultsConsistent t

/-- R53, R165: in the trace since the last reset, every exit path closes its capture window: outside CAPTURE as many
CAP_STOP as CAP_START, in CAPTURE one fewer; and attempts likewise. Every step keeps this, and no step takes an event out of
a trace but the assertion of `rst`, which leaves every trace empty ("A model starts a fresh event trace per instance after
reset", Log 19). So this is no claim across a reset (D27): a window or an attempt that a reset cuts is closed in no trace
(R270), and the counts hold after one because the trace starts afresh. -/
def Obligations.StepKeepsWindowsBalanced : Prop :=
  ∀ (s t : State), WindowsBalanced s → step s = .next t →
    WindowsBalanced t ∧
    ((∀ rest, s.inputs ≠ .rst true :: rest) → ∀ e, (s.eng e).trace <+: (t.eng e).trace) ∧
    ((∃ rest, s.inputs = .rst true :: rest) → ∀ e, (t.eng e).trace = [])
end

