-- ==== Sys2Proof/Laws/Decode.lean ====
section
/-! SUPPORT. The decoder's parts, said once: the parameters' ranges (R7), the offset table read both ways (R21, R63), and
the instance that an address selects (R60). -/

namespace Sys2Proof

/-- The ranges of R7 that the decoder rests on. -/
theorem Params.wf_ranges {p : Params} (h : p.wf = true) :
    p.base % 0x200 = 0 ∧ 1 ≤ p.nInst ∧ p.nInst ≤ 8 ∧ 41 ≤ p.capDepth ∧ p.capDepth ≤ 64 := by
  simp only [Params.wf, Bool.and_eq_true, decide_eq_true_eq] at h
  omega

/-- Every register's offset is in its bank and a multiple of 4. -/
theorem Reg.offset_lt (r : Reg) : r.offset < 0x200 ∧ r.offset % 4 = 0 := by
  cases r with
  | capData k =>
    have hk := k.isLt
    simp only [Reg.offset]
    omega
  | _ => decide

/-- The register found at a register's offset is that register; a CAP_DATA slot must exist. -/
theorem Reg.ofOffset_offset (p : Params) (r : Reg) (hk : ∀ k, r = .capData k → k.val < p.capDepth) :
    Reg.ofOffset p r.offset = some r := by
  cases r with
  | capData k =>
    have h1 : Reg.fixed.find? (fun r => r.offset == (Reg.capData k).offset) = none := by
      simp [Reg.fixed, Reg.offset]
      omega
    have h2 : (Reg.capData k).offset = 0x100 + 4 * k.val := rfl
    have h3 := hk k rfl
    have h4 := k.isLt
    unfold Reg.ofOffset
    rw [h1]
    unfold Reg.capSlot
    rw [dif_pos (by omega)]
    have h5 : (⟨((Reg.capData k).offset - 0x100) / 4, by omega⟩ : Fin 64) = k := by
      apply Fin.ext
      show ((Reg.capData k).offset - 0x100) / 4 = k.val
      omega
    simp only [h5]
  | _ => rfl

/-- No register stands at a reserved offset (R63). -/
theorem Reg.ofOffset_reserved {p : Params} {off : BitVec 9} (h : offsetReserved p off = true) :
    Reg.ofOffset p off.toNat = none := by
  simp only [offsetReserved, Bool.and_eq_true, decide_eq_true_eq] at h
  have h1 : Reg.fixed.find? (fun r => r.offset == off.toNat) = none := by
    simp [Reg.fixed, Reg.offset]
    omega
  unfold Reg.ofOffset
  rw [h1]
  unfold Reg.capSlot
  rw [dif_neg (by omega)]

/-- R60: an address in an instance's bank selects that instance and its offset there. -/
theorem selectEngine_bank {p : Params} {e : EngineId} {off addr : Nat} (h : engineExists p e = true) (ho : off < 0x200)
    (ha : addr = p.base + e.val * 0x200 + off) :
    selectEngine p addr = e ∧ (addr - p.base) % 0x200 = off ∧ addressInBlock p addr = true := by
  have he := e.isLt
  simp only [engineExists, decide_eq_true_eq] at h
  refine ⟨?_, by omega, ?_⟩
  · apply Fin.ext
    show ((addr - p.base) / 0x200) % 8 = e.val
    omega
  · simp only [addressInBlock, Bool.and_eq_true, decide_eq_true_eq]
    omega

/-- The two fields of a command word, read back. -/
theorem cmd_word_fields (mbz : BitVec 28) (code : BitVec 4) :
    (mbz ++ code : BitVec 32).extractLsb' 4 28 = mbz ∧ (mbz ++ code : BitVec 32).extractLsb' 0 4 = code := by
  refine ⟨BitVec.eq_of_getLsbD_eq fun i hi => ?_, BitVec.eq_of_getLsbD_eq fun i hi => ?_⟩
  · rw [BitVec.getLsbD_extractLsb', BitVec.getLsbD_append]
    simp [hi]
  · rw [BitVec.getLsbD_extractLsb', BitVec.getLsbD_append]
    simp [hi]

end Sys2Proof
end

