-- ==== Sys2Proof/Laws/State.lean ====
section
/-! SUPPORT. What each update of the state's parts leaves in each part, so that no proof unfolds a record update. -/

namespace Sys2Proof.Machine

/-! ## Reading what was written -/

theorem State.eng_setEng (s : State) (e f : EngineId) (x : Engine) :
    (s.setEng e x).eng f = if e = f then x else s.eng f := by
  simp [State.eng, State.setEng, Vector.getElem_set, Fin.ext_iff]

@[simp] theorem State.eng_setEng_same (s : State) (e : EngineId) (x : Engine) : (s.setEng e x).eng e = x := by
  simp [State.eng_setEng]

@[simp] theorem State.eng_setEng_ne (s : State) {e f : EngineId} (x : Engine) (h : f ≠ e) :
    (s.setEng e x).eng f = s.eng f := by
  simp [State.eng_setEng, Ne.symm h]

theorem State.eng_modEng (s : State) (e f : EngineId) (g : Engine → Engine) :
    (s.modEng e g).eng f = if e = f then g (s.eng e) else s.eng f := State.eng_setEng ..

@[simp] theorem State.eng_modEng_same (s : State) (e : EngineId) (g : Engine → Engine) :
    (s.modEng e g).eng e = g (s.eng e) := State.eng_setEng_same ..

@[simp] theorem State.eng_modEng_ne (s : State) {e f : EngineId} (g : Engine → Engine) (h : f ≠ e) :
    (s.modEng e g).eng f = s.eng f := State.eng_setEng_ne s _ h

theorem State.buf_setBuf (s : State) (c d : BitVec 3) (b : CapBuf) :
    (s.setBuf c b).buf d = if c = d then b else s.buf d := by
  simp [State.buf, State.setBuf, Vector.getElem_set, BitVec.toNat_eq]

@[simp] theorem State.buf_setBuf_same (s : State) (c : BitVec 3) (b : CapBuf) : (s.setBuf c b).buf c = b := by
  simp [State.buf_setBuf]

@[simp] theorem State.buf_setBuf_ne (s : State) {c d : BitVec 3} (b : CapBuf) (h : d ≠ c) :
    (s.setBuf c b).buf d = s.buf d := by
  simp [State.buf_setBuf, Ne.symm h]

theorem State.chanOwnerOf_setChanOwner (s : State) (c d : BitVec 3) (o : Option EngineId) :
    (s.setChanOwner c o).chanOwnerOf d = if c = d then o else s.chanOwnerOf d := by
  simp [State.chanOwnerOf, State.setChanOwner, Vector.getElem_set, BitVec.toNat_eq]

@[simp] theorem State.chanOwnerOf_setChanOwner_same (s : State) (c : BitVec 3) (o : Option EngineId) :
    (s.setChanOwner c o).chanOwnerOf c = o := by
  simp [State.chanOwnerOf_setChanOwner]

theorem State.pinOwnerOf_setPinOwner (s : State) (p q : BitVec 6) (o : Option EngineId) :
    (s.setPinOwner p o).pinOwnerOf q = if p = q then o else s.pinOwnerOf q := by
  simp [State.pinOwnerOf, State.setPinOwner, Vector.getElem_set, BitVec.toNat_eq]

@[simp] theorem State.pinOwnerOf_setPinOwner_same (s : State) (p : BitVec 6) (o : Option EngineId) :
    (s.setPinOwner p o).pinOwnerOf p = o := by
  simp [State.pinOwnerOf_setPinOwner]

/-! ## Writing what was there, writing twice -/

@[simp] theorem State.setEng_eng (s : State) (e : EngineId) : s.setEng e (s.eng e) = s := by
  simp [State.eng, State.setEng]

@[simp] theorem State.setEng_setEng (s : State) (e : EngineId) (x y : Engine) :
    (s.setEng e x).setEng e y = s.setEng e y := by
  simp [State.setEng]

@[simp] theorem State.setBuf_buf (s : State) (c : BitVec 3) : s.setBuf c (s.buf c) = s := by
  simp [State.buf, State.setBuf]

@[simp] theorem State.setBuf_setBuf (s : State) (c : BitVec 3) (b b' : CapBuf) :
    (s.setBuf c b).setBuf c b' = s.setBuf c b' := by
  simp [State.setBuf]

@[simp] theorem State.setEng_setBuf (s : State) (e : EngineId) (x : Engine) (c : BitVec 3) (b : CapBuf) :
    (s.setBuf c b).setEng e x = (s.setEng e x).setBuf c b := rfl

@[simp] theorem State.setEng_setChanOwner (s : State) (e : EngineId) (x : Engine) (c : BitVec 3)
    (o : Option EngineId) : (s.setChanOwner c o).setEng e x = (s.setEng e x).setChanOwner c o := rfl

@[simp] theorem State.setEng_setPinOwner (s : State) (e : EngineId) (x : Engine) (p : BitVec 6)
    (o : Option EngineId) : (s.setPinOwner p o).setEng e x = (s.setEng e x).setPinOwner p o := rfl

/-- Two states with the same parts are the same state. -/
theorem State.ext_parts {s t : State} (hp : t.params = s.params) (he : ∀ e, t.eng e = s.eng e)
    (hb : ∀ c, t.buf c = s.buf c) (hc : ∀ c, t.chanOwnerOf c = s.chanOwnerOf c)
    (hq : ∀ p, t.pinOwnerOf p = s.pinOwnerOf p) (hd : t.rdata = s.rdata) (hr : t.rst = s.rst)
    (hi : t.inputs = s.inputs) (hn : t.now = s.now) : t = s := by
  obtain ⟨p, en, b, c, q, d, r, i, n⟩ := s
  obtain ⟨p', en', b', c', q', d', r', i', n'⟩ := t
  have h1 : en' = en := Vector.ext fun k hk => he ⟨k, hk⟩
  have h2 : b' = b := Vector.ext fun k hk => by
    have := hb (BitVec.ofNatLT k hk)
    simpa [State.buf] using this
  have h3 : c' = c := Vector.ext fun k hk => by
    have := hc (BitVec.ofNatLT k hk)
    simpa [State.chanOwnerOf] using this
  have h4 : q' = q := Vector.ext fun k hk => by
    have := hq (BitVec.ofNatLT k hk)
    simpa [State.pinOwnerOf] using this
  simp_all

/-! ## One lemma per field and update -/

@[simp] theorem State.setEng_params (s : State) (e : EngineId) (x : Engine) : (s.setEng e x).params = s.params := rfl

@[simp] theorem State.setEng_rdata (s : State) (e : EngineId) (x : Engine) : (s.setEng e x).rdata = s.rdata := rfl

@[simp] theorem State.setEng_rst (s : State) (e : EngineId) (x : Engine) : (s.setEng e x).rst = s.rst := rfl

@[simp] theorem State.setEng_inputs (s : State) (e : EngineId) (x : Engine) : (s.setEng e x).inputs = s.inputs := rfl

@[simp] theorem State.setEng_now (s : State) (e : EngineId) (x : Engine) : (s.setEng e x).now = s.now := rfl

@[simp] theorem State.buf_setEng (s : State) (e : EngineId) (x : Engine) (d : BitVec 3) :
    (s.setEng e x).buf d = s.buf d := rfl

@[simp] theorem State.chanOwnerOf_setEng (s : State) (e : EngineId) (x : Engine) (d : BitVec 3) :
    (s.setEng e x).chanOwnerOf d = s.chanOwnerOf d := rfl

@[simp] theorem State.pinOwnerOf_setEng (s : State) (e : EngineId) (x : Engine) (q : BitVec 6) :
    (s.setEng e x).pinOwnerOf q = s.pinOwnerOf q := rfl

@[simp] theorem State.setBuf_params (s : State) (c : BitVec 3) (b : CapBuf) : (s.setBuf c b).params = s.params := rfl

@[simp] theorem State.setBuf_rdata (s : State) (c : BitVec 3) (b : CapBuf) : (s.setBuf c b).rdata = s.rdata := rfl

@[simp] theorem State.setBuf_rst (s : State) (c : BitVec 3) (b : CapBuf) : (s.setBuf c b).rst = s.rst := rfl

@[simp] theorem State.setBuf_inputs (s : State) (c : BitVec 3) (b : CapBuf) : (s.setBuf c b).inputs = s.inputs := rfl

@[simp] theorem State.setBuf_now (s : State) (c : BitVec 3) (b : CapBuf) : (s.setBuf c b).now = s.now := rfl

@[simp] theorem State.eng_setBuf (s : State) (c : BitVec 3) (b : CapBuf) (f : EngineId) :
    (s.setBuf c b).eng f = s.eng f := rfl

@[simp] theorem State.chanOwnerOf_setBuf (s : State) (c : BitVec 3) (b : CapBuf) (d : BitVec 3) :
    (s.setBuf c b).chanOwnerOf d = s.chanOwnerOf d := rfl

@[simp] theorem State.pinOwnerOf_setBuf (s : State) (c : BitVec 3) (b : CapBuf) (q : BitVec 6) :
    (s.setBuf c b).pinOwnerOf q = s.pinOwnerOf q := rfl

@[simp] theorem State.setChanOwner_params (s : State) (c : BitVec 3) (o : Option EngineId) : (s.setChanOwner c o).params = s.params := rfl

@[simp] theorem State.setChanOwner_rdata (s : State) (c : BitVec 3) (o : Option EngineId) : (s.setChanOwner c o).rdata = s.rdata := rfl

@[simp] theorem State.setChanOwner_rst (s : State) (c : BitVec 3) (o : Option EngineId) : (s.setChanOwner c o).rst = s.rst := rfl

@[simp] theorem State.setChanOwner_inputs (s : State) (c : BitVec 3) (o : Option EngineId) : (s.setChanOwner c o).inputs = s.inputs := rfl

@[simp] theorem State.setChanOwner_now (s : State) (c : BitVec 3) (o : Option EngineId) : (s.setChanOwner c o).now = s.now := rfl

@[simp] theorem State.eng_setChanOwner (s : State) (c : BitVec 3) (o : Option EngineId) (f : EngineId) :
    (s.setChanOwner c o).eng f = s.eng f := rfl

@[simp] theorem State.buf_setChanOwner (s : State) (c : BitVec 3) (o : Option EngineId) (d : BitVec 3) :
    (s.setChanOwner c o).buf d = s.buf d := rfl

@[simp] theorem State.pinOwnerOf_setChanOwner (s : State) (c : BitVec 3) (o : Option EngineId) (q : BitVec 6) :
    (s.setChanOwner c o).pinOwnerOf q = s.pinOwnerOf q := rfl

@[simp] theorem State.setPinOwner_params (s : State) (p : BitVec 6) (o : Option EngineId) : (s.setPinOwner p o).params = s.params := rfl

@[simp] theorem State.setPinOwner_rdata (s : State) (p : BitVec 6) (o : Option EngineId) : (s.setPinOwner p o).rdata = s.rdata := rfl

@[simp] theorem State.setPinOwner_rst (s : State) (p : BitVec 6) (o : Option EngineId) : (s.setPinOwner p o).rst = s.rst := rfl

@[simp] theorem State.setPinOwner_inputs (s : State) (p : BitVec 6) (o : Option EngineId) : (s.setPinOwner p o).inputs = s.inputs := rfl

@[simp] theorem State.setPinOwner_now (s : State) (p : BitVec 6) (o : Option EngineId) : (s.setPinOwner p o).now = s.now := rfl

@[simp] theorem State.eng_setPinOwner (s : State) (p : BitVec 6) (o : Option EngineId) (f : EngineId) :
    (s.setPinOwner p o).eng f = s.eng f := rfl

@[simp] theorem State.buf_setPinOwner (s : State) (p : BitVec 6) (o : Option EngineId) (d : BitVec 3) :
    (s.setPinOwner p o).buf d = s.buf d := rfl

@[simp] theorem State.chanOwnerOf_setPinOwner (s : State) (p : BitVec 6) (o : Option EngineId) (d : BitVec 3) :
    (s.setPinOwner p o).chanOwnerOf d = s.chanOwnerOf d := rfl

@[simp] theorem State.modEng_params (s : State) (e : EngineId) (g : Engine → Engine) : (s.modEng e g).params = s.params := rfl

@[simp] theorem State.modEng_rdata (s : State) (e : EngineId) (g : Engine → Engine) : (s.modEng e g).rdata = s.rdata := rfl

@[simp] theorem State.modEng_rst (s : State) (e : EngineId) (g : Engine → Engine) : (s.modEng e g).rst = s.rst := rfl

@[simp] theorem State.modEng_inputs (s : State) (e : EngineId) (g : Engine → Engine) : (s.modEng e g).inputs = s.inputs := rfl

@[simp] theorem State.modEng_now (s : State) (e : EngineId) (g : Engine → Engine) : (s.modEng e g).now = s.now := rfl

@[simp] theorem State.buf_modEng (s : State) (e : EngineId) (g : Engine → Engine) (d : BitVec 3) :
    (s.modEng e g).buf d = s.buf d := rfl

@[simp] theorem State.chanOwnerOf_modEng (s : State) (e : EngineId) (g : Engine → Engine) (d : BitVec 3) :
    (s.modEng e g).chanOwnerOf d = s.chanOwnerOf d := rfl

@[simp] theorem State.pinOwnerOf_modEng (s : State) (e : EngineId) (g : Engine → Engine) (q : BitVec 6) :
    (s.modEng e g).pinOwnerOf q = s.pinOwnerOf q := rfl

@[simp] theorem State.eng_with_rdata (s : State) (y : Word) (f : EngineId) :
    State.eng { s with rdata := y } f = s.eng f := rfl

@[simp] theorem State.buf_with_rdata (s : State) (y : Word) (d : BitVec 3) :
    State.buf { s with rdata := y } d = s.buf d := rfl

@[simp] theorem State.chanOwnerOf_with_rdata (s : State) (y : Word) (d : BitVec 3) :
    State.chanOwnerOf { s with rdata := y } d = s.chanOwnerOf d := rfl

@[simp] theorem State.pinOwnerOf_with_rdata (s : State) (y : Word) (q : BitVec 6) :
    State.pinOwnerOf { s with rdata := y } q = s.pinOwnerOf q := rfl

@[simp] theorem State.eng_with_rst (s : State) (y : Bool) (f : EngineId) :
    State.eng { s with rst := y } f = s.eng f := rfl

@[simp] theorem State.buf_with_rst (s : State) (y : Bool) (d : BitVec 3) :
    State.buf { s with rst := y } d = s.buf d := rfl

@[simp] theorem State.chanOwnerOf_with_rst (s : State) (y : Bool) (d : BitVec 3) :
    State.chanOwnerOf { s with rst := y } d = s.chanOwnerOf d := rfl

@[simp] theorem State.pinOwnerOf_with_rst (s : State) (y : Bool) (q : BitVec 6) :
    State.pinOwnerOf { s with rst := y } q = s.pinOwnerOf q := rfl

@[simp] theorem State.eng_with_inputs (s : State) (y : List Input) (f : EngineId) :
    State.eng { s with inputs := y } f = s.eng f := rfl

@[simp] theorem State.buf_with_inputs (s : State) (y : List Input) (d : BitVec 3) :
    State.buf { s with inputs := y } d = s.buf d := rfl

@[simp] theorem State.chanOwnerOf_with_inputs (s : State) (y : List Input) (d : BitVec 3) :
    State.chanOwnerOf { s with inputs := y } d = s.chanOwnerOf d := rfl

@[simp] theorem State.pinOwnerOf_with_inputs (s : State) (y : List Input) (q : BitVec 6) :
    State.pinOwnerOf { s with inputs := y } q = s.pinOwnerOf q := rfl

@[simp] theorem State.eng_with_now (s : State) (y : Nat) (f : EngineId) :
    State.eng { s with now := y } f = s.eng f := rfl

@[simp] theorem State.buf_with_now (s : State) (y : Nat) (d : BitVec 3) :
    State.buf { s with now := y } d = s.buf d := rfl

@[simp] theorem State.chanOwnerOf_with_now (s : State) (y : Nat) (d : BitVec 3) :
    State.chanOwnerOf { s with now := y } d = s.chanOwnerOf d := rfl

@[simp] theorem State.pinOwnerOf_with_now (s : State) (y : Nat) (q : BitVec 6) :
    State.pinOwnerOf { s with now := y } q = s.pinOwnerOf q := rfl

/-! ## The initial state -/

@[simp] theorem State.eng_resetWith (p : Params) (e : EngineId) : (State.resetWith p).eng e = Engine.reset := by
  simp [State.eng, State.resetWith]

@[simp] theorem State.buf_resetWith (p : Params) (c : BitVec 3) : (State.resetWith p).buf c = CapBuf.reset := by
  simp [State.buf, State.resetWith]

@[simp] theorem State.chanOwnerOf_resetWith (p : Params) (c : BitVec 3) :
    (State.resetWith p).chanOwnerOf c = none := by
  simp [State.chanOwnerOf, State.resetWith]

@[simp] theorem State.pinOwnerOf_resetWith (p : Params) (q : BitVec 6) :
    (State.resetWith p).pinOwnerOf q = none := by
  simp [State.pinOwnerOf, State.resetWith]

end Sys2Proof.Machine
end

