-- ==== Sys2Proof/Laws/Ops.lean ====
section
/-! SUPPORT. What each shared operation does, said once: acceptance of a command (R100), the completion record (R113),
claims (R102, R103), the buffers (R49, R163), and the tick step (R142, R169). -/

namespace Sys2Proof.Machine

/-! ## Acceptance (R100) -/

theorem acceptCommand_busy {e : EngineId} {s : State} (f : State → State) (h : (s.eng e).busy = true) :
    acceptCommand e f s = s.modEng e flagCmderr := by
  simp [acceptCommand, h]

theorem acceptCommand_idle {e : EngineId} {s : State} (f : State → State) (h : (s.eng e).busy = false) :
    acceptCommand e f s = f (s.modEng e clearDoneErr) := by
  simp [acceptCommand, h]

/-! ## Claims (R102, R103) -/

/-- After the old claim is dropped, the instance is unconfigured and its channel and pin are free. -/
theorem dropClaim_spec (e : EngineId) (s : State) :
    (dropClaim e s).eng e = { s.eng e with cfgd := false } ∧
    (∀ f, f ≠ e → (dropClaim e s).eng f = s.eng f) ∧
    (∀ d, (dropClaim e s).chanOwnerOf d =
      if (s.eng e).cfgd = true ∧ (s.eng e).chan = d then none else s.chanOwnerOf d) ∧
    (∀ q, (dropClaim e s).pinOwnerOf q =
      if (s.eng e).cfgd = true ∧ (s.eng e).pin = q then none else s.pinOwnerOf q) ∧
    (∀ d, (dropClaim e s).buf d = s.buf d) ∧ (dropClaim e s).params = s.params ∧
    (dropClaim e s).rdata = s.rdata ∧ (dropClaim e s).rst = s.rst ∧ (dropClaim e s).inputs = s.inputs ∧
    (dropClaim e s).now = s.now := by
  by_cases h : (s.eng e).cfgd = true
  · simp only [dropClaim, h, if_true]
    refine ⟨by simp, fun f hf => by simp [hf], fun d => ?_, fun q => ?_, fun d => rfl, rfl, rfl, rfl, rfl, rfl⟩
    · simp [State.chanOwnerOf_setChanOwner]
    · simp [State.pinOwnerOf_setPinOwner]
  · have h' : (s.eng e).cfgd = false := by simpa using h
    simp only [dropClaim, h', Bool.false_eq_true, if_false]
    refine ⟨?_, ?_⟩
    · rw [← h']
    · simp

/-- The claim: owner tables, latched pin and channel, CFGD and the emptied buffer, and nothing else. -/
theorem takeClaim_spec (e : EngineId) (p : BitVec 6) (c : BitVec 3) (s : State) :
    (takeClaim e p c s).eng e = { s.eng e with pin := p, chan := c, cfgd := true } ∧
    (∀ f, f ≠ e → (takeClaim e p c s).eng f = s.eng f) ∧
    (∀ d, (takeClaim e p c s).chanOwnerOf d = if c = d then some e else s.chanOwnerOf d) ∧
    (∀ q, (takeClaim e p c s).pinOwnerOf q = if p = q then some e else s.pinOwnerOf q) ∧
    (∀ d, (takeClaim e p c s).buf d = if c = d then (s.buf c).empty else s.buf d) ∧
    (takeClaim e p c s).params = s.params ∧ (takeClaim e p c s).rdata = s.rdata ∧
    (takeClaim e p c s).rst = s.rst ∧ (takeClaim e p c s).inputs = s.inputs ∧ (takeClaim e p c s).now = s.now := by
  refine ⟨by simp [takeClaim], fun f hf => by simp [takeClaim, hf], fun d => ?_, fun q => ?_, fun d => ?_,
    rfl, rfl, rfl, rfl, rfl⟩
  · simp [takeClaim, State.chanOwnerOf_setChanOwner]
  · simp [takeClaim, State.pinOwnerOf_setPinOwner]
  · simp [takeClaim, State.buf_setBuf]

/-! ## Buffers (R49, R163) -/

theorem CapBuf.push_count_le {depth : Nat} {b : CapBuf} (q : Sample) (h : b.count ≤ depth) :
    (b.push depth q).count ≤ depth := by
  unfold CapBuf.push
  split <;> simp_all

@[simp] theorem CapBuf.empty_count (b : CapBuf) : b.empty.count = 0 := rfl

@[simp] theorem CapBuf.empty_ovf (b : CapBuf) : b.empty.ovf = false := rfl

@[simp] theorem CapBuf.empty_entries (b : CapBuf) : b.empty.entries = b.entries := rfl

/-! ## The end of an attempt (R221) -/

/-- What the end of an attempt leaves alone, and the two phases it can leave the instance in. -/
theorem attemptEnd_spec (code : ErrCode) (x : Engine) :
    ((attemptEnd code x).phase = .idle ∨ (attemptEnd code x).phase = .retryWait) ∧
    (attemptEnd code x).cfgd = x.cfgd ∧ (attemptEnd code x).pin = x.pin ∧ (attemptEnd code x).chan = x.chan ∧
    (attemptEnd code x).gpio = x.gpio ∧ (x.trace ++ [.attEnd x.attempt code]) <+: (attemptEnd code x).trace := by
  unfold attemptEnd
  dsimp only
  split
  · rename_i h
    subst h
    simp [finish, emit]
  · split
    · simp [finish, emit]
    · split <;> simp [finish, emit]

/-- The end of an attempt, in its two shapes: the command completes, or a READ waits for its next attempt. -/
theorem attemptEnd_cases (code : ErrCode) (x : Engine) (Q : Engine → Prop)
   (h1 : ∀ a c tr, Q {x with attlog := a, phase := .idle, busy := false, done := true, err := c, trace := x.trace ++ [.attEnd x.attempt code] ++ tr})
   (h2 : ∀ a, x.mode = .read → x.attempt ≠ 3 → Q {x with attlog := a, phase := .retryWait, cnt := 0, trace := x.trace ++ [.attEnd x.attempt code]}) : Q (attemptEnd code x) := by
  unfold attemptEnd; dsimp only
  split
  · next h => subst h; exact h1 x.attlog .none [.cmdDone .none]
  · split
    · exact h1 _ code [.cmdDone code]
    · next hm =>
      split
      · next hlt =>
        refine h2 _ ?_ ?_
        · revert hm; simp only [emit]; cases x.mode <;> simp
        · intro h; rw [h] at hlt; simp at hlt
      · exact h1 _ .totalFailure [.cmdDone .totalFailure]

/-! ## The decoder (R190) -/

/-- A decode that succeeds carries the checksum of its own fields. -/
theorem decodeFrame_ok_checksum {ss : List Sample} {profile bitph : Bool} {thr : Half} {f : Frame}
    (h : decodeFrame ss profile bitph thr = .ok f) : f.c = frameChecksum f.h f.t ∧ 41 ≤ ss.length := by
  unfold decodeFrame at h
  split at h
  · exact absurd h (by simp)
  · next hl =>
    dsimp only at h
    split at h
    · exact absurd h (by simp)
    · next hc =>
      injection h with h
      subst h
      exact ⟨by simpa using hc, by simpa using hl⟩

/-! ## The tick step (R142, R169) -/

/-- A tick step moves its own instance only. -/
@[simp] theorem tickEngine_eng_ne (pins : BitVec 64) {e f : EngineId} (s : State) (h : f ≠ e) :
    (tickEngine pins e s).eng f = s.eng f := by
  simp [tickEngine, h]

/-- A tick step gives its own instance the unit's result. -/
@[simp] theorem tickEngine_eng_same (pins : BitVec 64) (e : EngineId) (s : State) :
    (tickEngine pins e s).eng e =
      (tickUnit s.params.capDepth (lineOf pins (s.eng e)) (s.eng e) (s.buf (s.eng e).chan)).1 := by
  simp [tickEngine]

/-- A tick step moves the buffer of its own channel only. -/
theorem tickEngine_buf (pins : BitVec 64) (e : EngineId) (s : State) (d : BitVec 3) :
    (tickEngine pins e s).buf d =
      if (s.eng e).chan = d then
        (tickUnit s.params.capDepth (lineOf pins (s.eng e)) (s.eng e) (s.buf (s.eng e).chan)).2
      else s.buf d := by
  simp [tickEngine, State.buf_setBuf]

@[simp] theorem tickEngine_params (pins : BitVec 64) (e : EngineId) (s : State) :
    (tickEngine pins e s).params = s.params := rfl

@[simp] theorem tickEngine_rdata (pins : BitVec 64) (e : EngineId) (s : State) :
    (tickEngine pins e s).rdata = s.rdata := rfl

@[simp] theorem tickEngine_rst (pins : BitVec 64) (e : EngineId) (s : State) :
    (tickEngine pins e s).rst = s.rst := rfl

@[simp] theorem tickEngine_inputs (pins : BitVec 64) (e : EngineId) (s : State) :
    (tickEngine pins e s).inputs = s.inputs := rfl

@[simp] theorem tickEngine_now (pins : BitVec 64) (e : EngineId) (s : State) :
    (tickEngine pins e s).now = s.now := rfl

@[simp] theorem tickEngine_chanOwnerOf (pins : BitVec 64) (e : EngineId) (s : State) (c : BitVec 3) :
    (tickEngine pins e s).chanOwnerOf c = s.chanOwnerOf c := rfl

@[simp] theorem tickEngine_pinOwnerOf (pins : BitVec 64) (e : EngineId) (s : State) (p : BitVec 6) :
    (tickEngine pins e s).pinOwnerOf p = s.pinOwnerOf p := rfl

/-- An IDLE unit's tick does nothing (R142). -/
@[simp] theorem tickUnit_idle {depth : Nat} {line : Bool} {x : Engine} {b : CapBuf} (h : x.phase = .idle) :
    tickUnit depth line x b = (x, b) := by
  simp [tickUnit, h]

/-- The sample of a CAPTURE tick, in its three shapes: the level goes on, a rising edge, a falling edge. -/
theorem captureSample_cases (depth line) (x : Engine) (b) : 
   (line = x.curLevel ∧ (captureSample depth line x b).1 = {x with curLen := sat16 (x.curLen.toNat+1)}) ∨
   (line = true ∧ x.curLevel = false ∧ (captureSample depth line x b).1 = {x with curLevel := true, curLen := 1, edgeSeen := true, pendValid := false}) ∨
   (line = false ∧ x.curLevel = true ∧ (captureSample depth line x b).1 = {x with curLevel := false, curLen := 1, edgeSeen := true, pendValid := true, pendHigh := x.curLen}) := by
  unfold captureSample closePhase
  by_cases h : line = x.curLevel
  · left; rw [if_pos h]; exact ⟨h, rfl⟩
  · right
    rw [if_neg h]
    cases hl : line with
    | false =>
      right
      have hc : x.curLevel = true := by cases hc : x.curLevel <;> simp_all
      rw [if_pos hc]; exact ⟨rfl, hc, rfl⟩
    | true =>
      left
      have hc : x.curLevel = false := by cases hc : x.curLevel <;> simp_all
      rw [hc]
      refine ⟨rfl, rfl, ?_⟩
      cases hp : x.pendValid
      · obtain ⟨⟩ := x; simp only at hp hc; subst hp hc; rfl
      · rfl

/-- What the sample of a CAPTURE tick leaves alone. -/
theorem captureSample_claim (depth : Nat) (line : Bool) (x : Engine) (b : CapBuf) :
    (captureSample depth line x b).1.cfgd = x.cfgd ∧ (captureSample depth line x b).1.pin = x.pin ∧
    (captureSample depth line x b).1.chan = x.chan := by
  unfold captureSample closePhase
  split
  · simp
  · dsimp only
    split
    · simp
    · split <;> simp

@[simp] theorem publish_claim (r : DecodeResult) (x : Engine) :
    (publish r x).cfgd = x.cfgd ∧ (publish r x).pin = x.pin ∧ (publish r x).chan = x.chan := by
  cases r <;> simp [publish, writeResults]

/-- What the exit of a capture leaves alone. -/
theorem captureExit_claim (kind : ExitKind) (x : Engine) (b : CapBuf) :
    (captureExit kind x b).cfgd = x.cfgd ∧ (captureExit kind x b).pin = x.pin ∧
    (captureExit kind x b).chan = x.chan := by
  cases kind <;> simp only [captureExit]
  · generalize decodeBuffer x b = r
    obtain ⟨-, h1, h2, h3, -⟩ :=
      attemptEnd_spec r.code (emit (.capStop x.chan) (emit (.capRelease x.chan) (publish r x)))
    rw [h1, h2, h3]
    exact publish_claim r x
  · obtain ⟨-, h1, h2, h3, -⟩ :=
      attemptEnd_spec .captureTimeout (emit (.capStop x.chan) (emit (.capRelease x.chan) x))
    rw [h1, h2, h3]
    exact ⟨rfl, rfl, rfl⟩

/-- The claim of an instance is the same after its tick (R48). -/
theorem tickUnit_claim (depth : Nat) (line : Bool) (x : Engine) (b : CapBuf) :
    (tickUnit depth line x b).1.cfgd = x.cfgd ∧ (tickUnit depth line x b).1.pin = x.pin ∧
    (tickUnit depth line x b).1.chan = x.chan := by
  unfold tickUnit
  split
  · simp
  · unfold tickSettle; dsimp only; split <;> simp [driveGpio, emit, countTick]
  · unfold tickStartLow; dsimp only; split <;> simp [driveGpio, emit, countTick]
  · unfold tickRelWait; dsimp only; split <;> simp [countTick]
  · unfold tickRespWait
    split
    · simp [captureStart, emit]
    · dsimp only
      split
      · have h := attemptEnd_spec .noResponse (countTick x)
        simpa [countTick] using ⟨h.2.1, h.2.2.1, h.2.2.2.1⟩
      · simp [countTick]
  · unfold tickCapture
    dsimp only
    have h := captureSample_claim depth line x b
    split
    · have h' := captureExit_claim .complete
        { (captureSample depth line x b).1 with rx := sat32 ((captureSample depth line x b).1.rx.toNat + 1) }
        (captureSample depth line x b).2
      simpa [h] using h'
    · split
      · have h' := captureExit_claim .timeout
          { (captureSample depth line x b).1 with rx := sat32 ((captureSample depth line x b).1.rx.toNat + 1) }
          (captureSample depth line x b).2
        simpa [h] using h'
      · simpa using h
  · unfold tickRetryWait; dsimp only; split <;> simp [beginAttempt, driveGpio, emit, clearResults, countTick]

/-- The end of an attempt leaves the configuration registers alone. -/
theorem attemptEnd_config (code : ErrCode) (x : Engine) (r : RwReg) : r.get (attemptEnd code x) = r.get x := by
  unfold attemptEnd
  dsimp only
  split
  · cases r <;> rfl
  · split
    · cases r <;> rfl
    · split <;> cases r <;> rfl

/-- The sample of a CAPTURE tick leaves the configuration registers alone. -/
theorem captureSample_config (depth : Nat) (line : Bool) (x : Engine) (b : CapBuf) (r : RwReg) :
    r.get (captureSample depth line x b).1 = r.get x := by
  unfold captureSample closePhase
  split
  · cases r <;> rfl
  · dsimp only
    split
    · cases r <;> rfl
    · split <;> cases r <;> rfl

/-- The exit of a capture leaves the configuration registers alone. -/
theorem captureExit_config (kind : ExitKind) (x : Engine) (b : CapBuf) (r : RwReg) :
    r.get (captureExit kind x b) = r.get x := by
  cases kind <;> simp only [captureExit, attemptEnd_config]
  · generalize decodeBuffer x b = d
    cases d <;> cases r <;> rfl
  · cases r <;> rfl

/-- No tick writes a configuration register: only the host does (R108). -/
theorem tickUnit_config (depth : Nat) (line : Bool) (x : Engine) (b : CapBuf) (r : RwReg) :
    r.get (tickUnit depth line x b).1 = r.get x := by
  unfold tickUnit
  split
  · rfl
  · unfold tickSettle; dsimp only; split <;> cases r <;> rfl
  · unfold tickStartLow; dsimp only; split <;> cases r <;> rfl
  · unfold tickRelWait; dsimp only; split <;> cases r <;> rfl
  · unfold tickRespWait
    split
    · cases r <;> rfl
    · dsimp only
      split
      · rw [attemptEnd_config]; cases r <;> rfl
      · cases r <;> rfl
  · unfold tickCapture
    dsimp only
    have h := captureSample_config depth line x b r
    split
    · rw [captureExit_config, ← h]; cases r <;> rfl
    · split
      · rw [captureExit_config, ← h]; cases r <;> rfl
      · rw [← h]; cases r <;> rfl
  · unfold tickRetryWait; dsimp only; split <;> cases r <;> rfl

/-- The sample of a CAPTURE tick emits nothing and moves no phase. -/
theorem captureSample_quiet (depth : Nat) (line : Bool) (x : Engine) (b : CapBuf) :
    (captureSample depth line x b).1.trace = x.trace ∧ (captureSample depth line x b).1.phase = x.phase := by
  rcases captureSample_cases depth line x b with ⟨-, h⟩ | ⟨-, -, h⟩ | ⟨-, -, h⟩ <;> rw [h] <;> exact ⟨rfl, rfl⟩

/-- The end of an attempt only appends to the trace. -/
theorem attemptEnd_trace (code : ErrCode) (x : Engine) : x.trace <+: (attemptEnd code x).trace :=
  (List.prefix_append _ _).trans (attemptEnd_spec code x).2.2.2.2.2

/-- The exit of a capture only appends to the trace. -/
theorem captureExit_trace (kind : ExitKind) (x : Engine) (b : CapBuf) : x.trace <+: (captureExit kind x b).trace := by
  cases kind <;> simp only [captureExit]
  · generalize decodeBuffer x b = r
    exact .trans (by cases r <;> simp [emit, publish, writeResults]) (attemptEnd_trace ..)
  · exact .trans (by simp [emit]) (attemptEnd_trace ..)

/-- A tick only appends to the trace (R10). -/
theorem tickUnit_trace (depth : Nat) (line : Bool) (x : Engine) (b : CapBuf) :
    x.trace <+: (tickUnit depth line x b).1.trace := by
  unfold tickUnit
  split
  · simp
  · unfold tickSettle; dsimp only; split <;> simp [driveGpio, emit, countTick]
  · unfold tickStartLow; dsimp only; split <;> simp [driveGpio, emit, countTick]
  · unfold tickRelWait; dsimp only; split <;> simp [countTick]
  · unfold tickRespWait
    split
    · simp [captureStart, emit]
    · dsimp only
      split
      · exact attemptEnd_trace .noResponse (countTick x)
      · simp [countTick]
  · unfold tickCapture
    dsimp only
    have h := (captureSample_quiet depth line x b).1
    split
    · exact .trans (by simp [h]) (captureExit_trace ..)
    · split
      · exact .trans (by simp [h]) (captureExit_trace ..)
      · simp [h]
  · unfold tickRetryWait; dsimp only; split <;> simp [beginAttempt, driveGpio, emit, clearResults, countTick]

/-- A tick's buffer is its input, emptied at the capture start, or its input with at most one sample pushed. -/
theorem tickUnit_buf (depth : Nat) (line : Bool) (x : Engine) (b : CapBuf) :
    (tickUnit depth line x b).2 = b ∨ (tickUnit depth line x b).2 = b.empty ∨
    (tickUnit depth line x b).2 = b.push depth ⟨x.pendHigh, x.curLen⟩ := by
  unfold tickUnit
  split
  · simp
  · simp
  · simp
  · simp
  · unfold tickRespWait
    split
    · simp
    · dsimp only; split <;> simp
  · have h : (captureSample depth line x b).2 = b ∨
        (captureSample depth line x b).2 = b.push depth ⟨x.pendHigh, x.curLen⟩ := by
      unfold captureSample closePhase
      split
      · simp
      · dsimp only
        split
        · simp
        · split <;> simp
    have h' : (tickCapture depth line x b).2 = (captureSample depth line x b).2 := by
      unfold tickCapture; dsimp only; split
      · rfl
      · split <;> rfl
    rw [h']
    tauto
  · simp

end Sys2Proof.Machine
end

