-- ==== Sys2Proof/Laws/Step.lean ====
section
/-! SUPPORT. Everything an operation and a step can do, said once, for the invariants that every step keeps. -/

namespace Sys2Proof.Machine

/-! ## Ticks of the whole block (R8) -/

/-- What every instance's tick step keeps, a tick of the block keeps. -/
theorem tickEngines_induct {P : State → Prop} (pins : BitVec 64)
    (h : ∀ s e, engineExists s.params e = true → P s → P (tickEngine pins e s)) {s : State} (hs : P s) :
    P (tickEngines pins s) := by
  unfold tickEngines
  generalize engineIds = ids
  induction ids generalizing s with
  | nil => exact hs
  | cons e ids ih =>
    simp only [List.foldl_cons]
    apply ih
    split
    · next he => exact h s e he hs
    · exact hs

@[simp] theorem tickEngines_params (pins : BitVec 64) (s : State) : (tickEngines pins s).params = s.params :=
  tickEngines_induct (P := fun t => t.params = s.params) pins (fun _ _ _ h => h) rfl

/-- A tick of the block is its tick steps, after the tick is counted; under `rst` it is only counted (R270). -/
theorem tickPulse_induct {P : State → Prop} (pins : BitVec 64)
    (hnow : ∀ s : State, P s → P { s with now := s.now + 1 })
    (h : ∀ s e, engineExists s.params e = true → P s → P (tickEngine pins e s)) {s : State} (hs : P s) :
    P (tickPulse pins s) := by
  unfold tickPulse
  dsimp only
  split
  · exact hnow s hs
  · exact tickEngines_induct pins h (hnow s hs)

@[simp] theorem tickPulse_params (pins : BitVec 64) (s : State) : (tickPulse pins s).params = s.params :=
  tickPulse_induct (P := fun t => t.params = s.params) pins (fun _ h => h) (fun _ _ _ h => h) rfl

@[simp] theorem tickPulse_rst (pins : BitVec 64) (s : State) : (tickPulse pins s).rst = s.rst :=
  tickPulse_induct (P := fun t => t.rst = s.rst) pins (fun _ h => h) (fun _ _ _ h => h) rfl

/-- Among tick steps of distinct instances, each instance takes its own, on the buffer its channel has by then. -/
theorem tickFold_eng (pins : BitVec 64) (e : EngineId) (ids : List EngineId) (hn : ids.Nodup) (s : State) :
    ∃ b, (ids.foldl (fun s e => if engineExists s.params e then tickEngine pins e s else s) s).eng e =
      if e ∈ ids ∧ engineExists s.params e = true then
        (tickUnit s.params.capDepth (lineOf pins (s.eng e)) (s.eng e) b).1 else s.eng e := by
  induction ids generalizing s with
  | nil => exact ⟨CapBuf.reset, by simp⟩
  | cons f ids ih =>
    rw [List.nodup_cons] at hn
    by_cases hf : engineExists s.params f = true
    · obtain ⟨b, hb⟩ := ih hn.2 (tickEngine pins f s)
      by_cases he : e = f
      · subst he
        exact ⟨s.buf (s.eng e).chan, by simp [hf, hb, hn.1]⟩
      · exact ⟨b, by simp [hf, hb, he]⟩
    · obtain ⟨b, hb⟩ := ih hn.2 s
      by_cases he : e = f
      · subst he; exact ⟨b, by simp [hf, hb]⟩
      · exact ⟨b, by simp [hf, hb, he]⟩

/-- A tick of the block gives an existing instance its own tick step, on the buffer its channel has by then. -/
theorem tickPulse_eng (pins : BitVec 64) {e : EngineId} {s : State} (hr : s.rst = false)
    (he : engineExists s.params e = true) :
    ∃ b, (tickPulse pins s).eng e = (tickUnit s.params.capDepth (lineOf pins (s.eng e)) (s.eng e) b).1 := by
  obtain ⟨b, hb⟩ := tickFold_eng pins e engineIds (by decide) { s with now := s.now + 1 }
  have hm : e ∈ engineIds := by clear hb he; revert e; decide
  rw [if_pos ⟨hm, he⟩] at hb
  refine ⟨b, Eq.trans ?_ hb⟩
  simp only [tickPulse, tickEngines]
  rw [if_neg (by simp [hr])]

/-- What an instance's tick step keeps, whatever the buffer, a run of ticks keeps; `P` sees the ticks still to come. -/
theorem tickRun_induct {P : List (BitVec 64) → Engine → Prop} (e : EngineId)
    (h : ∀ depth pins rest x b, P (pins :: rest) x → P rest (tickUnit depth (lineOf pins x) x b).1)
    (levels : List (BitVec 64)) {s : State} (hr : s.rst = false) (he : engineExists s.params e = true)
    (h0 : P levels (s.eng e)) : P [] ((tickRun levels s).eng e) := by
  induction levels generalizing s with
  | nil => exact h0
  | cons pins rest ih =>
    obtain ⟨b, hb⟩ := tickPulse_eng pins hr he
    exact ih (s := tickPulse pins s) (by rw [tickPulse_rst, hr]) (by rw [tickPulse_params, he])
      (hb ▸ h _ _ _ _ _ h0)

/-! ## Operations -/

/-- Everything an operation can do when it answers a next state. -/
theorem exec_next_cases {i : Instr} {s t : State} (h : exec i s = .next t) :
    t = s ∨ (∃ v, t = { s with rdata := v }) ∨
    ∃ e, engineOf i = some e ∧
      (t = s.modEng e flagCmderr ∨ (∃ r d, t = s.modEng e (configWrite r d)) ∨
       (∃ d, t = s.modEng e (statusClear d)) ∨ (∃ d, t = appendSample e d s) ∨
       (∃ m, t = acceptCommand e (fun s => s.modEng e (startEffect m)) s) ∨
       t = acceptCommand e (decodeEffect e) s ∨ t = acceptCommand e (configEffect e) s ∨
       t = acceptCommand e (unconfigEffect e) s ∨ t = acceptCommand e (capclrEffect e) s) := by
  cases i with
  | cmdWrite e d =>
    have ht : commandWrite e d s = t := by injection h
    unfold commandWrite at ht
    split at ht
    · exact .inr (.inr ⟨e, rfl, .inl ht.symm⟩)
    · split at ht
      · exact .inl ht.symm
      · exact .inr (.inr ⟨e, rfl, .inr (.inr (.inr (.inr (.inl ⟨.read, ht.symm⟩))))⟩)
      · exact .inr (.inr ⟨e, rfl, .inr (.inr (.inr (.inr (.inl ⟨.transact, ht.symm⟩))))⟩)
      · exact .inr (.inr ⟨e, rfl, .inr (.inr (.inr (.inr (.inr (.inl ht.symm)))))⟩)
      · exact .inr (.inr ⟨e, rfl, .inr (.inr (.inr (.inr (.inr (.inr (.inl ht.symm))))))⟩)
      · exact .inr (.inr ⟨e, rfl, .inr (.inr (.inr (.inr (.inr (.inr (.inr (.inl ht.symm)))))))⟩)
      · exact .inr (.inr ⟨e, rfl, .inr (.inr (.inr (.inr (.inr (.inr (.inr (.inr ht.symm)))))))⟩)
      · exact .inr (.inr ⟨e, rfl, .inl ht.symm⟩)
  | subwordOrMisaligned a => exact absurd h (by simp [exec, execSubwordOrMisaligned])
  | regRead e off => injection h with h; exact .inr (.inl ⟨_, h.symm⟩)
  | reservedCmd7 e | reservedCmd8F e _ | reservedCmdMbz e _ _ =>
    injection h with h; exact .inr (.inr ⟨e, rfl, .inl h.symm⟩)
  | wrCtrl e d | wrCfg e d | wrTSettle e d | wrTLow e d | wrTRel e d | wrTResp e d | wrTRxto e d | wrTIdle e d
  | wrTRetry e d | wrBitThr e d =>
    injection h with h; exact .inr (.inr ⟨e, rfl, .inr (.inl ⟨_, _, h.symm⟩)⟩)
  | statusW1c e d => injection h with h; exact .inr (.inr ⟨e, rfl, .inr (.inr (.inl ⟨d, h.symm⟩))⟩)
  | capWdataWrite e d => injection h with h; exact .inr (.inr ⟨e, rfl, .inr (.inr (.inr (.inl ⟨d, h.symm⟩)))⟩)
  | read e | transact e =>
    injection h with h; exact .inr (.inr ⟨e, rfl, .inr (.inr (.inr (.inr (.inl ⟨_, h.symm⟩))))⟩)
  | decode e => injection h with h; exact .inr (.inr ⟨e, rfl, .inr (.inr (.inr (.inr (.inr (.inl h.symm)))))⟩)
  | config e => injection h with h; exact .inr (.inr ⟨e, rfl, .inr (.inr (.inr (.inr (.inr (.inr (.inl h.symm))))))⟩)
  | unconfig e =>
    injection h with h; exact .inr (.inr ⟨e, rfl, .inr (.inr (.inr (.inr (.inr (.inr (.inr (.inl h.symm)))))))⟩)
  | capclr e =>
    injection h with h; exact .inr (.inr ⟨e, rfl, .inr (.inr (.inr (.inr (.inr (.inr (.inr (.inr h.symm)))))))⟩)
  | nop _ | roWriteAttlog _ _ | roWriteResHum _ _ | roWriteResTemp _ _ | roWriteResRaw _ _ | roWriteResCsum _ _
  | roWriteCapCount _ _ | roWriteAct _ _ | roWriteCapData _ _ _ | reservedWrite _ _ _ =>
    injection h with h; exact .inl h.symm

/-! ## Steps -/

/-- Everything a step can do when it answers a next state: with `u` the state without the arrival it takes, a tick, a level
of the reset input, an operation, or an operation that `rst` makes inert. -/
theorem step_next_cases {s t : State} (h : step s = .next t) :
    ∃ u : State, (∃ rest, u = { s with inputs := rest }) ∧
      ((∃ pins, t = tickPulse pins u) ∨ (∃ level, s.inputs = .rst level :: u.inputs ∧ t = resetInput level u) ∨
       (∃ i, exec i u = .next t) ∨
       t = u ∨ t = { u with rdata := 0 }) := by
  obtain ⟨p, en, b, c, q, d, r, ins, n⟩ := s
  cases ins with
  | nil =>
    simp only [step, nextInput] at h
    injection h with h
    exact ⟨_, ⟨[], rfl⟩, .inl ⟨_, h.symm⟩⟩
  | cons a rest =>
    refine ⟨_, ⟨rest, rfl⟩, ?_⟩
    cases a with
    | tick pins => simp only [step, nextInput] at h; injection h with h; exact .inl ⟨_, h.symm⟩
    | rst level => simp only [step, nextInput] at h; injection h with h; exact .inr (.inl ⟨_, rfl, h.symm⟩)
    | op code =>
      simp only [step, nextInput] at h
      split at h
      · exact .inr (.inr (.inl ⟨_, h⟩))
      · next u hu =>
        injection h with h
        subst h
        simp only [takeCode] at hu
        split at hu
        · injection hu with hu
          split at hu <;> simp_all
        · split at hu <;> simp_all
      · exact absurd h (by simp)

/-! ## Invariants -/

/-- A property that every part of a step keeps, a step keeps: no arrival, a read's word, the reset input, a tick, and each
shared operation. -/
theorem step_keeps {Inv : State → Prop}
  (hin : ∀ s ins, Inv s → Inv {s with inputs := ins})
  (hrd : ∀ s v, Inv s → Inv {s with rdata := v})
  (hrst : ∀ s l, Inv s → Inv (resetInput l s))
  (htick : ∀ s pins, Inv s → Inv (tickPulse pins s))
  (hflag : ∀ s e, Inv s → Inv (s.modEng e flagCmderr))
  (hcfgw : ∀ s e r d, Inv s → Inv (s.modEng e (configWrite r d)))
  (hst : ∀ s e d, Inv s → Inv (s.modEng e (statusClear d)))
  (happ : ∀ s e d, Inv s → Inv (appendSample e d s))
  (hstart : ∀ s e m, Inv s → (s.eng e).busy = false → Inv ((s.modEng e clearDoneErr).modEng e (startEffect m)))
  (hdec : ∀ s e, Inv s → (s.eng e).busy = false → Inv (decodeEffect e (s.modEng e clearDoneErr)))
  (hcon : ∀ s e, Inv s → (s.eng e).busy = false → Inv (configEffect e (s.modEng e clearDoneErr)))
  (hunc : ∀ s e, Inv s → (s.eng e).busy = false → Inv (unconfigEffect e (s.modEng e clearDoneErr)))
  (hclr : ∀ s e, Inv s → (s.eng e).busy = false → Inv (capclrEffect e (s.modEng e clearDoneErr)))
  : ∀ s t, Inv s → step s = .next t → Inv t := by
  intro s t hs h
  obtain ⟨u, ⟨rest, rfl⟩, h⟩ := step_next_cases h
  have hu := hin s rest hs
  generalize ({s with inputs := rest} : State) = u at h hu
  rcases h with ⟨pins, rfl⟩ | ⟨l, -, rfl⟩ | ⟨i, h⟩ | rfl | rfl
  · exact htick _ _ hu
  · exact hrst _ _ hu
  · have hacc : ∀ e (f : State → State), ((u.eng e).busy = false → Inv (f (u.modEng e clearDoneErr))) → Inv (acceptCommand e f u) := by
      intro e f hf
      unfold acceptCommand
      split
      · exact hflag _ _ hu
      · exact hf (by simp_all)
    rcases exec_next_cases h with rfl | ⟨v, rfl⟩ | ⟨e, -, rfl | ⟨r, d, rfl⟩ | ⟨d, rfl⟩ | ⟨d, rfl⟩ | ⟨m, rfl⟩ | rfl | rfl | rfl | rfl⟩
    · exact hu
    · exact hrd _ _ hu
    · exact hflag _ _ hu
    · exact hcfgw _ _ _ _ hu
    · exact hst _ _ _ hu
    · exact happ _ _ _ hu
    · exact hacc _ _ fun hb => hstart _ _ _ hu hb
    · exact hacc _ _ fun hb => hdec _ _ hu hb
    · exact hacc _ _ fun hb => hcon _ _ hu hb
    · exact hacc _ _ fun hb => hunc _ _ hu hb
    · exact hacc _ _ fun hb => hclr _ _ hu hb
  · exact hu
  · exact hrd _ _ hu

/-- A property of the instances alone that every tick step and every operation on one instance keeps, a step keeps. -/
theorem step_keeps_engines {P : Engine → Prop}
  (hreset : P Engine.reset)
  (htick : ∀ depth line x b, P x → P (tickUnit depth line x b).1)
  (hflag : ∀ x, P x → P (flagCmderr x)) (hflag2 : ∀ x, P x → P (flagWerr x))
  (hcfgw : ∀ x r d, P x → P (configWrite r d x))
  (hst : ∀ x d, P x → P (statusClear d x))
  (hstart : ∀ x m, P x → x.busy = false → P (startEffect m (clearDoneErr x)))
  (hdec : ∀ x b, P x → x.busy = false →
    P (let y := clearResults (clearDoneErr x)
       if y.cfgd then finish (decodeBuffer y b).code (publish (decodeBuffer y b) y)
       else finish .peripheralConfigError y))
  (hcon1 : ∀ x p c, P x → x.busy = false →
    P (finish .none (emit (.capStop c) (emit (.capStart c)
      { clearResults (clearDoneErr x) with pin := p, chan := c, cfgd := true }))))
  (hcon2 : ∀ x, P x → x.busy = false →
    P (finish .peripheralConfigError { clearResults (clearDoneErr x) with cfgd := false }))
  (hunc : ∀ x, P x → x.busy = false →
    P (finish .none (driveGpio Gpio.released { clearResults (clearDoneErr x) with cfgd := false })))
  (hclr : ∀ x e, P x → x.busy = false → P (finish e (clearDoneErr x)))
  : ∀ s t : State, (∀ e, P (s.eng e)) → step s = .next t → ∀ e, P (t.eng e) := by
  have hmod : ∀ (s : State) e g, (∀ e, P (s.eng e)) → P (g (s.eng e)) → ∀ f, P ((s.modEng e g).eng f) := by
    intro s e g hs hg f
    rw [State.eng_modEng]; split
    · exact hg
    · exact hs f
  apply step_keeps (Inv := fun s => ∀ e, P (s.eng e))
  · intro s ins h; exact h
  · intro s v h; exact h
  · intro s l h e
    unfold resetInput; split
    · change P ((State.resetWith s.params).eng e)
      simpa [State.resetWith, State.eng] using hreset
    · exact h e
  · intro s pins h
    apply tickPulse_induct (P := fun s => ∀ e, P (s.eng e)) pins
    · intro s h; exact h
    · intro s e _ hs f
      by_cases hf : f = e
      · subst hf; simpa using htick _ _ _ _ (hs f)
      · simpa [hf] using hs f
    · exact h
  · intro s e h; exact hmod _ _ _ h (hflag _ (h e))
  · intro s e r d h; exact hmod _ _ _ h (hcfgw _ _ _ (h e))
  · intro s e d h; exact hmod _ _ _ h (hst _ _ (h e))
  · intro s e d h
    unfold appendSample; dsimp only; split
    · exact hmod _ _ _ h (hflag2 _ (h e))
    · intro f; simpa using h f
  · intro s e m h hb f
    rw [State.eng_modEng]; split
    · simpa using hstart _ m (h e) hb
    · next hf => simpa [Ne.symm hf] using h f
  · intro s e h hb f
    have := hdec (s.eng e) (s.buf (s.eng e).chan) (h e) hb
    unfold decodeEffect
    by_cases hf : f = e
    · subst hf
      simp only [State.eng_modEng_same, State.buf_modEng] at this ⊢
      by_cases hc : (clearResults (clearDoneErr (s.eng f))).cfgd = true
      · have hch : (clearResults (clearDoneErr (s.eng f))).chan = (s.eng f).chan := rfl
        simp only [hc, if_true, hch, State.eng_modEng_same] at this ⊢
        exact this
      · rw [if_neg hc] at this ⊢
        simpa using this
    · have := h f
      dsimp only; split <;> simpa [hf] using this
  · intro s e h hb f
    unfold configEffect
    dsimp only
    obtain ⟨h1, h2, -⟩ := dropClaim_spec e ((s.modEng e clearDoneErr).modEng e clearResults)
    split
    · obtain ⟨k1, k2, -⟩ := takeClaim_spec e (cfgPin ((dropClaim e ((s.modEng e clearDoneErr).modEng e clearResults)).eng e).cfg) (cfgChan ((dropClaim e ((s.modEng e clearDoneErr).modEng e clearResults)).eng e).cfg) (dropClaim e ((s.modEng e clearDoneErr).modEng e clearResults))
      by_cases hf : f = e
      · subst hf
        rw [State.eng_modEng_same, k1, h1]
        simpa using hcon1 _ _ _ (h f) hb
      · rw [State.eng_modEng_ne _ _ hf, k2 f hf, h2 f hf]
        simpa [hf] using h f
    · by_cases hf : f = e
      · subst hf
        rw [State.eng_modEng_same, h1]
        simpa using hcon2 _ (h f) hb
      · rw [State.eng_modEng_ne _ _ hf, h2 f hf]
        simpa [hf] using h f
  · intro s e h hb f
    unfold unconfigEffect
    dsimp only
    obtain ⟨h1, h2, -⟩ := dropClaim_spec e ((s.modEng e clearDoneErr).modEng e clearResults)
    by_cases hf : f = e
    · subst hf
      rw [State.eng_modEng_same, h1]
      simpa using hunc _ (h f) hb
    · rw [State.eng_modEng_ne _ _ hf, h2 f hf]
      simpa [hf] using h f
  · intro s e h hb f
    unfold capclrEffect; dsimp only
    by_cases hf : f = e
    · subst hf
      split <;> simpa using hclr _ _ (h f) hb
    · split <;> simpa [hf] using h f

end Sys2Proof.Machine
end

