-- ==== Sys2Proof/Tests/Slice0.lean ====
section
/-! SUPPORT. Tests, each about one step or one decode on a small state, with the expected values of 95_test_vectors.md or
of the rule named; and, for every statement with hypotheses, a theorem that names data meeting all of them together. -/

namespace Sys2Proof.Tests

open Sys2Proof.Machine

/-! ## Helpers -/

/-- The next state an operation answers, if it answers one. -/
def after (i : Instr) (s : State) : Option State :=
  match exec i s with
  | .next t => some t
  | .fault _ => none
  | .refused _ => none

/-- What a register of instance 0 reads after an operation. -/
def reads (i : Instr) (s : State) (r : Reg) : Option Word := (after i s).map (fun t => regValue t 0 r)

/-- The trace of instance 0 after an operation. -/
def traceAfter (i : Instr) (s : State) : Option (List Event) := (after i s).map (fun t => (t.eng 0).trace)

/-- 95_test_vectors.md section 2, "configured": instance 0 holds pin 4 and channel 3; the trace is left out. -/
def configured : State :=
  ((State.reset.setChanOwner 3 (some 0)).setPinOwner 4 (some 0)).setEng 0
    { Engine.reset with cfg := 0x00000304, cfgd := true, pin := 4, chan := 3 }

/-- Instance 0 of `configured` in a given phase of a command of a given kind. -/
def during (m : Mode) (n : BitVec 2) (p : Phase) : State :=
  configured.modEng 0 (fun x =>
    { x with busy := true, mode := m, attempt := n, phase := p,
             gpio := ⟨decide (p = .startLow), false, true⟩ })

/-- `configured` with samples in channel 3's buffer. -/
def holding (ss : List Sample) : State :=
  configured.setBuf 3 (ss.foldl (CapBuf.push 64) CapBuf.reset)

/-- `configured` with the count of channel 3's buffer alone set. -/
def holdingCount (n : Nat) : State := configured.setBuf 3 { CapBuf.reset with count := n }

/-- The 41 samples of a frame with the low durations `zero` and `one` for its bits (BITPH 0), 95_test_vectors.md S-A. -/
def frameSamples (zero one : Half) (frame : BitVec 40) : List Sample :=
  ⟨80, 50⟩ :: (List.range 40).map (fun j => ⟨50, if frame.getLsbD (39 - j) then one else zero⟩)

/-- Parameters whose block is not at address 0 and whose buffers are the smallest (R7). -/
def params41 : Params := { Params.test with base := 0x40000000, capDepth := 41 }

/-- A 32-bit access. -/
def wr (addr : Nat) (d : Word) : Code := .bus ⟨.write, .w32, addr, d⟩

/-- A 32-bit read. -/
def rd (addr : Nat) : Code := .bus ⟨.read, .w32, addr, 0⟩

/-! ## Well-formedness: each check refuses an ill-formed term -/

theorem test_wf_parameters : Params.test.wf = true ∧ params41.wf = true ∧
    { Params.test with base := 0x100 }.wf = false ∧ { Params.test with capDepth := 40 }.wf = false ∧
    { Params.test with nInst := 9 }.wf = false ∧ { Params.test with validPins := [40] }.wf = false := by decide

theorem test_wf_engine_must_exist :
    wellFormed Params.test (.nop 2) = false ∧ wellFormed Params.test (.nop 1) = true := by decide

theorem test_wf_mbz_must_not_be_zero :
    wellFormed Params.test (.reservedCmdMbz 0 0 3) = false ∧ wellFormed Params.test (.reservedCmdMbz 0 1 3) = true := by
  decide

theorem test_wf_slot_below_depth :
    wellFormed params41 (.roWriteCapData 0 41 0) = false ∧ wellFormed params41 (.roWriteCapData 0 40 0) = true := by
  decide

theorem test_wf_read_aligned :
    wellFormed Params.test (.regRead 0 2) = false ∧ wellFormed Params.test (.regRead 0 4) = true := by decide

theorem test_wf_offset_reserved :
    wellFormed Params.test (.reservedWrite 0 0x04C 0) = false ∧ wellFormed Params.test (.reservedWrite 0 0x050 0) = true ∧
    wellFormed params41 (.reservedWrite 0 0x1A0 0) = false ∧ wellFormed params41 (.reservedWrite 0 0x1A4 0) = true := by
  decide

theorem test_wf_access_illegal :
    wellFormed Params.test (.subwordOrMisaligned ⟨.write, .w32, 0, 0⟩) = false ∧
    wellFormed Params.test (.subwordOrMisaligned ⟨.write, .w8, 0x400, 0⟩) = false ∧
    wellFormed Params.test (.subwordOrMisaligned ⟨.write, .w8, 0, 1⟩) = true := by decide

/-! ## Decoding: every operation from a code written out from R21, R80 and R86 -/

theorem test_decode_commands :
    [0x0, 0x1, 0x2, 0x3, 0x4, 0x5, 0x6, 0x7, 0x8, 0xF, 0x10, 0x80000001].map (decodeCommand 1) =
      [.nop 1, .read 1, .transact 1, .decode 1, .config 1, .unconfig 1, .capclr 1, .reservedCmd7 1, .reservedCmd8F 1 0,
       .reservedCmd8F 1 7, .reservedCmdMbz 1 1 0, .reservedCmdMbz 1 0x8000000 1] := by decide

theorem test_decode_writes :
    [0x008, 0x000, 0x004, 0x024, 0x028, 0x02C, 0x030, 0x034, 0x038, 0x03C, 0x040, 0x00C, 0x048].map
        (fun off => decode Params.test (wr off 5)) =
      [.cmdWrite 0 5, .wrCtrl 0 5, .wrCfg 0 5, .wrTSettle 0 5, .wrTLow 0 5, .wrTRel 0 5, .wrTResp 0 5, .wrTRxto 0 5,
       .wrTIdle 0 5, .wrTRetry 0 5, .wrBitThr 0 5, .statusW1c 0 5, .capWdataWrite 0 5].map .ok := by decide

theorem test_decode_ignored_writes :
    [0x010, 0x014, 0x018, 0x01C, 0x020, 0x044, 0x04C, 0x100, 0x1FC, 0x050, 0x0FC].map
        (fun off => decode Params.test (wr (0x200 + off) 7)) =
      [.roWriteAttlog 1 7, .roWriteResHum 1 7, .roWriteResTemp 1 7, .roWriteResRaw 1 7, .roWriteResCsum 1 7,
       .roWriteCapCount 1 7, .roWriteAct 1 7, .roWriteCapData 1 0 7, .roWriteCapData 1 63 7, .reservedWrite 1 0x050 7,
       .reservedWrite 1 0x0FC 7].map .ok := by decide

theorem test_decode_reads_and_illegal :
    decode params41 (rd 0x4000020C) = .ok (.regRead 1 0x00C) ∧
    decode params41 (wr 0x400001A0 1) = .ok (.roWriteCapData 0 40 1) ∧
    decode params41 (wr 0x400001A4 1) = .ok (.reservedWrite 0 0x1A4 1) ∧
    decode params41 (.bus ⟨.read, .w32, 0x40000002, 0⟩) = .ok (.subwordOrMisaligned ⟨.read, .w32, 0x40000002, 0⟩) ∧
    decode params41 (.bus ⟨.write, .w8, 0x40000000, 1⟩) = .ok (.subwordOrMisaligned ⟨.write, .w8, 0x40000000, 1⟩) ∧
    decode params41 (rd 0x400003FC) = .ok (.regRead 1 0x1FC) ∧
    decode params41 (rd 0x40000400) = .error .outsideBlock ∧ decode params41 (rd 0x3FFFFFFC) = .error .outsideBlock := by
  decide

theorem test_table_words :
    decodeTableWord 32 4 = some (.config 0) ∧ decodeTableWord 16 0x008 = some (.cmdWrite 0 0) ∧
    decodeTableWord 16 0x100 = some (.roWriteCapData 0 0 0) ∧ decodeTableWord 0 0 = some (.regRead 0 0) := by
  decide +kernel

/-! ## One operation each -/

/-- R101. -/
theorem test_nop_busy : reads (.nop 0) (during .transact 1 .settle) .status = some 0x00110009 := by decide

/-- TRN-1. -/
theorem test_transact : reads (.transact 0) configured .status = some 0x00110009 ∧
    traceAfter (.transact 0) configured = some [.attBegin 1, .gpio ⟨false, false, true⟩] := by decide

/-- REG-6b. -/
theorem test_transact_busy : reads (.transact 0) (during .transact 1 .settle) .status = some 0x00111009 := by
  decide

/-- CFG-10a. -/
theorem test_read_unconfigured : reads (.read 0) State.reset .status = some 0x00000012 ∧
    traceAfter (.read 0) State.reset = some [.cmdDone .peripheralConfigError] := by decide

/-- P2: READ while configured. -/
theorem test_read : reads (.read 0) configured .status = some 0x00110009 := by decide

/-- DEC-1. -/
theorem test_decode_profile0 :
    let s := holding (frameSamples 30 70 0x028C806573)
    reads (.decode 0) s .status = some 0x0000010E ∧ reads (.decode 0) s .resHum = some 652 ∧
    reads (.decode 0) s .resTemp = some 0xFFFFFF9B ∧ reads (.decode 0) s .resRaw = some 0x028C8065 ∧
    reads (.decode 0) s .resCsum = some 0x73 ∧ reads (.decode 0) s .capCount = some 41 := by decide +kernel

/-- DEC-6: checksum bit 0 flipped. -/
theorem test_decode_checksum_error :
    let s := holding (frameSamples 30 70 0x028C806572)
    reads (.decode 0) s .status = some 0x0000005A ∧ reads (.decode 0) s .resRaw = some 0 := by decide +kernel

/-- CFG-1. -/
theorem test_config :
    let s := State.reset.modEng 0 (fun x => { x with cfg := 0x304 })
    reads (.config 0) s .status = some 0x0000000A ∧ reads (.config 0) s .act = some 0x00000304 ∧
    traceAfter (.config 0) s = some [.capStart 3, .capStop 3, .cmdDone .none] ∧
    (after (.config 0) s).map (fun t => (t.chanOwnerOf 3, t.pinOwnerOf 4)) = some (some 0, some 0) := by decide

/-- CFG-6: a failing CONFIG drops the old claim. -/
theorem test_config_fails :
    let s := configured.modEng 0 (fun x => { x with cfg := 0x028 })
    reads (.config 0) s .status = some 0x00000012 ∧ reads (.config 0) s .act = some 0 ∧
    (after (.config 0) s).map (fun t => (t.chanOwnerOf 3, t.pinOwnerOf 4)) = some (none, none) := by decide

/-- CFG-7a. -/
theorem test_unconfig : reads (.unconfig 0) configured .status = some 0x00000002 ∧
    traceAfter (.unconfig 0) configured = some [.gpio ⟨false, false, false⟩, .cmdDone .none] ∧
    (after (.unconfig 0) configured).map (fun t => t.chanOwnerOf 3) = some none := by decide

/-- CFG-8, and a CAPCLR of 3 samples (R104). -/
theorem test_capclr : reads (.capclr 0) State.reset .status = some 0x00000012 ∧
    reads (.capclr 0) (holdingCount 3) .capCount = some 0 := by decide

/-- REG-6a, from DONE set: CMDERR is added and DONE stays. -/
theorem test_reserved_commands :
    let s := configured.modEng 0 (fun x => { x with done := true })
    [Instr.reservedCmd7 0, .reservedCmd8F 0 7, .reservedCmdMbz 0 1 0, .cmdWrite 0 0x80000001].map
      (fun i => reads i s .status) = List.replicate 4 (some 0x0000100A) := by decide

/-- R100: a CMD write of 1 is READ, of 0 is NOP, of 0x10 is reserved. -/
theorem test_cmd_write :
    reads (.cmdWrite 0 1) configured .status = some 0x00110009 ∧ reads (.cmdWrite 0 0) configured .status = some 0x8 ∧
    reads (.cmdWrite 0 0x10) configured .status = some 0x1008 := by decide

/-- REG-2. -/
theorem test_config_writes :
    reads (.wrCtrl 0 0xFFFFFFFF) configured .ctrl = some 0x00000001 ∧
    reads (.wrCfg 0 0xFFFFFFFF) configured .cfg = some 0x0003073F ∧
    reads (.wrTIdle 0 0xFFFFFFFF) configured .tIdle = some 0x0000FFFF ∧
    reads (.wrBitThr 0 0xFFFFFFFF) configured .bitThr = some 0x0000FFFF ∧
    reads (.wrTSettle 0 0xFFFFFFFF) configured .tSettle = some 0xFFFFFFFF ∧
    reads (.wrTLow 0 0x1F4) configured .tLow = some 500 ∧ reads (.wrTRel 0 0x28000001) configured .tRel = some 0x28000001 ∧
    reads (.wrTResp 0 91) configured .tResp = some 91 ∧ reads (.wrTRxto 0 4889) configured .tRxto = some 4889 ∧
    reads (.wrTRetry 0 5) configured .tRetry = some 5 := by decide

/-- REG-3: ignored while BUSY, with WERR. -/
theorem test_config_writes_busy :
    let s := during .transact 1 .settle
    reads (.wrTLow 0 5) s .tLow = some 18000 ∧ reads (.wrCfg 0 0) s .cfg = some 0x304 ∧
    reads (.wrCtrl 0 1) s .status = some 0x00112009 ∧ reads (.capWdataWrite 0 5) s .status = some 0x00112009 := by
  decide

/-- REG-5. -/
theorem test_status_w1c :
    let s := configured.modEng 0 (fun x => { x with done := true, cmderr := true, werr := true })
    reads (.statusW1c 0 0xFFFFFFFF) s .status = some 0x00000008 ∧
    reads (.statusW1c 0 0xFFFFCFFD) s .status = some 0x0000300A ∧
    (after (.statusW1c 0 2) (s.modEng 0 (fun x => { x with ctrl := 1 }))).map (fun t => irq (t.eng 0)) = some false := by
  decide

/-- R110: SAMPLE 50, 70 is a sample with high 50 and low 70; CFG-9; a full buffer sets OVF. -/
theorem test_cap_wdata :
    reads (.capWdataWrite 0 0x00460032) (holdingCount 2) (.capData 2) = some 0x00460032 ∧
    (after (.capWdataWrite 0 0x00460032) configured).map (fun t => (t.buf 3).entries[0]) = some ⟨50, 70⟩ ∧
    reads (.capWdataWrite 0 1) State.reset .status = some 0x00002000 ∧
    reads (.capWdataWrite 0 1) (holdingCount 64) .status = some 0x00000208 := by decide

/-- REG-4: a write to a read-only register, to a reserved offset too, changes nothing. -/
theorem test_ignored_writes :
    [Instr.roWriteAttlog 0 7, .roWriteResHum 0 5, .roWriteResTemp 0 5, .roWriteResRaw 0 5, .roWriteResCsum 0 5,
      .roWriteCapCount 0 5, .roWriteAct 0 0, .roWriteCapData 0 0 5, .reservedWrite 0 0x050 0xFFFFFFFF].map
      (fun i => after i configured) = List.replicate 9 (some configured) := by decide

/-- REG-1: T_IDLE at reset; ACT when configured; a reserved offset reads 0. -/
theorem test_reg_read :
    (after (.regRead 0 0x038) State.reset).map State.rdata = some 0x000003E8 ∧
    (after (.regRead 0 0x04C) configured).map State.rdata = some 0x00000304 ∧
    (after (.regRead 0 0x0FC) { configured with rdata := 9 }).map State.rdata = some 0 := by decide

/-- REG-7. -/
theorem test_illegal_access : after (.subwordOrMisaligned ⟨.write, .w8, 0, 1⟩) configured = none := by decide

/-! ## One step each -/

/-- What the next step leaves, if it leaves a state. -/
def stepped (s : State) : Option State :=
  match step s with
  | .next t => some t
  | .fault _ => none
  | .refused _ => none

/-- A table word placed in the reset state is what the next step runs. -/
theorem test_with_fetch_word :
    (stepped (State.reset.withFetchWord 32 5)).map (fun t => regValue t 0 .status) = some 0x00000002 ∧
    (stepped (State.reset.withFetchWord 16 0x024)).map (fun t => regValue t 0 .tSettle) = some 0 := by decide

/-- R131, TRN-5: with T_SETTLE = 0, SETTLE lasts one tick and the pin is driven low in it. -/
theorem test_settle_tick :
    (stepped { (during .read 1 .settle).modEng 0 (fun x => { x with tSettle := 0 }) with inputs := [.tick 0] }).map
      (fun t => ((t.eng 0).phase, (t.eng 0).gpio, (t.eng 0).cnt)) = some (.startLow, ⟨true, false, true⟩, 0) := by
  decide

/-- R134, R245: the high sample in the last RESP_WAIT tick wins; pin 4 is the line. -/
theorem test_resp_wait_tick :
    let s := (during .transact 1 .respWait).modEng 0 (fun x => { x with cnt := 89 })
    (stepped { s with inputs := [.tick 0x10] }).map (fun t => ((t.eng 0).phase, (t.eng 0).curLen)) =
      some (.capture, 1) ∧
    (stepped { s with inputs := [.tick (~~~ 0x10)] }).map (fun t => regValue t 0 .status) = some 0x0001002A := by
  decide

/-- R161, CAP-1: a rising edge records the pair that it ends. -/
theorem test_capture_edge :
    let s := (during .transact 1 .capture).modEng 0
      (fun x => { x with curLevel := false, curLen := 50, edgeSeen := true, pendValid := true, pendHigh := 80 })
    (stepped { s with inputs := [.tick 0x10] }).map (fun t => regValue t 0 (.capData 0)) = some 0x00320050 := by
  decide

/-- CAP-5a: completion wins over the timeout of the same tick (R245). -/
theorem test_capture_completion_wins :
    let s := (during .transact 1 .capture).modEng 0
      (fun x => { x with curLevel := true, curLen := 999, edgeSeen := true, rx := 99999 })
    (stepped { s with inputs := [.tick 0x10] }).map (fun t => regValue t 0 .status) = some 0x0001004A := by
  decide

/-- R221, R222: the third failure of a READ is final; RETRY_WAIT begins attempt 2. -/
theorem test_retry :
    let s := (during .read 3 .respWait).modEng 0 (fun x => { x with cnt := 89, attlog := ⟨2, 3, 0⟩ })
    let w := (during .read 1 .retryWait).modEng 0 (fun x => { x with cnt := 1999999 })
    (stepped { s with inputs := [.tick 0] }).map (fun t => (regValue t 0 .status, regValue t 0 .attlog)) =
      some (0x0003006A, 0x232) ∧
    (stepped { w with inputs := [.tick 0] }).map (fun t => regValue t 0 .status) = some 0x00120009 := by decide

/-- RST-1, RST-2. -/
theorem test_reset :
    (stepped { during .read 1 .capture with inputs := [.rst true] }).map
      (fun t => (regValue t 0 .status, t.chanOwnerOf 3, (t.eng 0).gpio, (t.eng 0).trace)) =
      some (0, none, ⟨false, false, false⟩, []) ∧
    (stepped { configured with rst := true, inputs := [.op (rd 0x00C)], rdata := 7 }).map State.rdata = some 0 ∧
    (stepped { configured with rst := true, inputs := [.op (wr 0x028 1)] }).map (fun t => regValue t 0 .tLow) =
      some 18000 := by decide

/-! ## Witnesses: data that meet the hypotheses of each statement, clause by clause -/

/-- Instance 0 in CAPTURE on its first high sample. -/
def capturing : State :=
  (during .read 1 .capture).modEng 0 (fun x =>
    { x with curLevel := true, curLen := 1, trace := [.attBegin 1, .gpio ⟨false, false, true⟩, .capStart 3] })

/-- Instance 0 at the start of SETTLE with the shortest durations, two ticks for T_RESP, T_RXTO and T_IDLE. -/
def timed : State :=
  (during .read 1 .settle).modEng 0 (fun x =>
    { x with tSettle := 0, tLow := 0, tRel := 0, tResp := 2, tRxto := 2, tIdle := 2, tRetry := 0 })

/-- Two instances on channels 3 and 2. -/
def twoClaims : State :=
  ((capturing.setChanOwner 2 (some 1)).setPinOwner 5 (some 1)).setEng 1
    { Engine.reset with cfgd := true, pin := 5, chan := 2 }

theorem capturing_ownership : OwnershipExact capturing := by unfold OwnershipExact; decide

theorem twoClaims_ownership : OwnershipExact twoClaims := by unfold OwnershipExact; decide

theorem capturing_phases : ∀ e, (capturing.eng e).phaseOk := by unfold Engine.phaseOk; decide

theorem twoClaims_phases : ∀ e, (twoClaims.eng e).phaseOk := by unfold Engine.phaseOk; decide

theorem witness_DecodeOfEncodeIsTheOperation :
    params41.wf = true ∧ wellFormed params41 (.roWriteCapData 1 40 0xFFFFFFFF) = true ∧
    wellFormed params41 (.subwordOrMisaligned ⟨.read, .w32, 0x400003FF, 1⟩) = true := by decide

theorem witness_DecodedOperationIsWellFormed :
    params41.wf = true ∧ decode params41 (wr 0x400003A4 1) = .ok (.reservedWrite 1 0x1A4 1) := by decide

theorem witness_EveryCommandWordHasOneOperation : engineExists Params.test 1 = true := by decide

theorem witness_AddressSelectsInstanceAndOffset :
    params41.wf = true ∧ (0x40000400 : Nat) ≥ params41.base + params41.nInst * 0x200 ∧ (0x3FFFFFFF : Nat) < params41.base ∧
    engineExists params41 1 = true ∧ (0x400003FC : Nat) = params41.base + (1 : EngineId).val * 0x200 + 0x1FC ∧
    Reg.offset (.capData 40) = 0x1A0 ∧ (40 : Fin 64).val < params41.capDepth ∧ Reg.offset .ctrl = 0 ∧
    offsetReserved params41 (BitVec.ofNat 9 0x1A4) = true ∧ offsetReserved params41 (BitVec.ofNat 9 0x1FC) = true := by
  decide

theorem witness_StepRunsTheDecodedOperation :
    configured.rst = false ∧ { configured with inputs := [.op (wr 0x008 1)] }.inputs = [.op (wr 0x008 1)] ∧
    decode configured.params (wr 0x008 1) = .ok (.cmdWrite 0 1) ∧
    decode configured.params (wr 0x400 1) = .error .outsideBlock := by decide

theorem witness_TickStepsEveryInstanceOnce :
    { twoClaims with inputs := [.tick 0x30] }.rst = false ∧
    OwnershipExact { twoClaims with inputs := [.tick 0x30] } ∧
    (∀ e, ({ twoClaims with inputs := [.tick 0x30] }.eng e).phaseOk) ∧
    { twoClaims with inputs := [.tick 0x30] }.inputs = [.tick 0x30] ∧ twoClaims.inputs = [] ∧
    engineExists twoClaims.params 0 = true ∧ engineExists twoClaims.params 2 = false ∧
    (twoClaims.eng 1).cfgd = true ∧ twoClaims.chanOwnerOf 0 = none :=
  ⟨rfl, twoClaims_ownership, twoClaims_phases, rfl, rfl, by decide, by decide, by decide, by decide⟩

theorem witness_EngineTicksCommute :
    (0 : EngineId) ≠ 1 ∧ OwnershipExact twoClaims ∧ (∀ g, (twoClaims.eng g).phaseOk) :=
  ⟨by decide, twoClaims_ownership, twoClaims_phases⟩

theorem witness_IllegalAccessFaults :
    configured.rst = false ∧ addressInBlock configured.params 0x3FE = true ∧ (0x3FE : Nat) % 4 ≠ 0 ∧
    addressInBlock configured.params 0 = true ∧ Width.w16 ≠ Width.w32 := by decide

theorem witness_OnlyIllegalAccessesStop :
    (∀ a, Instr.nop 0 ≠ .subwordOrMisaligned a) ∧
    step { configured with inputs := [.op (rd 0x400)] } = .refused .outsideBlock ∧
    step { configured with inputs := [.op (rd 0x002)] } = .fault .busError :=
  ⟨fun _ h => Instr.noConfusion h, rfl, rfl⟩

theorem witness_ResetAbandonsAndHolds :
    { capturing with inputs := [.rst true] }.inputs = [.rst true] ∧
    { capturing with inputs := [.rst false] }.inputs = [.rst false] ∧
    { capturing with inputs := [.tick 0], rst := true }.rst = true ∧
    { capturing with inputs := [], rst := true }.inputs = [] ∧
    addressInBlock capturing.params 0x3FC = true ∧ engineExists capturing.params 1 = true := by decide

theorem witness_CmdWriteAcceptance :
    (0x10 : Word).extractLsb' 4 28 ≠ 0 ∧ 7 ≤ ((7 : Word).extractLsb' 0 4).toNat ∧ (configured.eng 0).busy = false ∧
    (capturing.eng 0).busy = true := by decide

theorem witness_ConfigClaimsOrFails :
    let x := configured.eng 0
    x.busy = false ∧ (x.cfg.extractLsb' 0 6).toNat < configured.params.nPins ∧
    (x.cfg.extractLsb' 0 6).toNat ∈ configured.params.validPins ∧ (x.cfg.extractLsb' 8 3).toNat < configured.params.nChan ∧
    (x.cfgd = true ∧ x.chan = x.cfg.extractLsb' 8 3) ∧ (x.cfgd = true ∧ x.pin = x.cfg.extractLsb' 0 6) ∧
    ¬ ((0x028 : Word).extractLsb' 0 6).toNat < configured.params.nPins := by decide

theorem witness_UnconfigReleases : (configured.eng 0).busy = false := by decide

theorem witness_CapclrEmptiesTheOwnedBuffer :
    (configured.eng 0).busy = false ∧ (configured.eng 0).cfgd = true ∧ (State.reset.eng 0).busy = false ∧
    (State.reset.eng 0).cfgd = false := by decide

theorem witness_DecodeCommandPublishesOrClears :
    (configured.eng 0).busy = false ∧ (State.reset.eng 0).cfgd = false ∧ (configured.eng 0).cfgd = true ∧
    decodeFrame [] false false 50 = .insufficientData ∧
    decodeFrame (frameSamples 30 70 0x028C806572) false false 50 = .checksumError ∧
    decodeFrame (frameSamples 49 50 0x028C806573) false false 50 = .ok ⟨0x028C, 0x8065, 0x73, 652, -101, true⟩ := by
  decide

theorem witness_ReadAndTransactStartAttemptOne :
    (configured.eng 0).busy = false ∧ (configured.eng 0).cfgd = true ∧ (State.reset.eng 0).busy = false ∧
    (State.reset.eng 0).cfgd = false := by decide

theorem witness_ConfigurationWritesStoreOrFlag :
    (configured.eng 0).busy = false ∧ (capturing.eng 0).busy = true := by decide

theorem witness_ConfigurationReadsBack :
    (configured.eng 0).busy = false ∧
    (∃ t u, exec (.wrBitThr 0 0xFFFFFFFF) configured = .next t ∧ exec (.regRead 0 0x040) t = .next u ∧
      u.rdata = 0x0000FFFF) :=
  ⟨by decide, _, _, rfl, rfl, by decide⟩

theorem witness_StatusWriteClearsItsFlags : (0x00000002 : Word).getLsbD 1 = true := by decide

theorem witness_CapWdataAppendsOneSample :
    (capturing.eng 0).busy = true ∧ (State.reset.eng 0).cfgd = false ∧ ((holdingCount 63).eng 0).busy = false ∧
    ((holdingCount 63).eng 0).cfgd = true ∧ ((holdingCount 63).buf 3).count < (holdingCount 63).params.capDepth ∧
    (holdingCount 64).params.capDepth ≤ ((holdingCount 64).buf 3).count := by decide

theorem witness_ReservedOffsetsReadZeroAndIgnoreWrites :
    offsetReserved configured.params 0x050 = true ∧ offsetReserved configured.params 0x0FC = true ∧
    offsetReserved params41 0x1A4 = true ∧ offsetReserved params41 0x1FC = true := by decide

theorem witness_ReadsReturnTheRegisters :
    (63 : Fin 64).val < configured.params.capDepth ∧ ((holdingCount 1).eng 0).cfgd = true ∧
    (0 : Fin 64).val < ((holdingCount 1).buf 3).count ∧ ¬ (1 : Fin 64).val < ((holdingCount 1).buf 3).count := by
  decide

theorem witness_IdleTicksChangeNothing :
    (∀ e, engineExists configured.params e = true → (configured.eng e).phase = .idle) := by decide

theorem witness_StartSequencePhases :
    ((during .read 1 .settle).eng 0).phase = .settle ∧ ((during .read 1 .startLow).eng 0).phase = .startLow ∧
    ((during .read 1 .relWait).eng 0).phase = .relWait := by decide

theorem witness_ResponseWait :
    ((during .read 1 .respWait).eng 0).phase = .respWait ∧
    (0x10 : BitVec 64).getLsbD ((during .read 1 .respWait).eng 0).pin.toNat = true ∧
    (~~~ 0x10 : BitVec 64).getLsbD ((during .read 1 .respWait).eng 0).pin.toNat = false := by decide

/-- A tick that enters RETRY_WAIT, an operation outside it, and a wait of 3 ticks from its entry, one tick short and whole. -/
theorem witness_RetryWaitBeginsTheNextAttempt :
    let x : Engine := { (during .read 1 .respWait).eng 0 with tResp := 1 }
    let s : State := (during .read 1 .retryWait).modEng 0 (fun x => { x with tRetry := 3 })
    x.phase ≠ .retryWait ∧ (tickUnit 64 false x CapBuf.reset).1.phase = .retryWait ∧
    (configured.eng 0).phase ≠ .retryWait ∧ (∃ t, exec (.read 0) configured = .next t) ∧
    s.rst = false ∧ engineExists s.params 0 = true ∧ (s.eng 0).phase = .retryWait ∧ (s.eng 0).cnt = 0 ∧
    ([0, 0] : List (BitVec 64)).length < max (s.eng 0).tRetry.toNat 1 ∧
    ([0, 0, 0] : List (BitVec 64)).length = max (s.eng 0).tRetry.toNat 1 := by
  refine ⟨by decide, by decide, by decide, ⟨_, rfl⟩, rfl, by decide, by decide, by decide, by decide, by decide⟩

theorem witness_AttemptEndDecidesRetry :
    ErrCode.checksumError ≠ .none ∧ ((during .read 1 .capture).eng 0).attempt ≠ 0 ∧
    ((during .transact 1 .capture).eng 0).mode = .transact ∧ ((during .read 2 .capture).eng 0).mode = .read ∧
    ((during .read 2 .capture).eng 0).attempt ≠ 3 ∧ ((during .read 3 .capture).eng 0).attempt = 3 := by decide

/-- The three outcomes of a CAPTURE tick that goes on at a high level: it completes (999 samples so far), it times out
(99999 ticks so far, no edge), and neither. -/
theorem witness_CaptureTick :
    let x := capturing.eng 0
    let done := { x with edgeSeen := true, curLen := 999 }
    let late := { x with rx := 99999 }
    x.phase = .capture ∧ x.curLevel = true ∧ (0x10 : BitVec 64).getLsbD x.pin.toNat = true ∧ done.edgeSeen = true ∧
    max (done.tIdle.extractLsb' 0 16).toNat 1 ≤ (BitVec.ofNat 16 (min (done.curLen.toNat + 1) 0xFFFF) : Half).toNat ∧
    late.edgeSeen = false ∧
    max late.tRxto.toNat 1 ≤ (BitVec.ofNat 32 (min (late.rx.toNat + 1) 0xFFFFFFFF) : Word).toNat ∧
    x.edgeSeen = false ∧
    ¬ max x.tRxto.toNat 1 ≤ (BitVec.ofNat 32 (min (x.rx.toNat + 1) 0xFFFFFFFF) : Word).toNat := by decide

theorem witness_DecodeChecksLengthThenChecksum :
    (frameSamples 30 70 0).length = 41 ∧ ((frameSamples 30 70 0).take 40).length < 41 ∧
    (let f := frameBit false 50 (frameSamples 30 70 0x028C806572)
     checksumField f ≠ frameChecksum (humidityRaw f) (temperatureRaw f)) ∧
    (let f := frameBit false 50 (frameSamples 30 70 0x028C806573)
     checksumField f = frameChecksum (humidityRaw f) (temperatureRaw f)) := by decide

theorem witness_BitDecision :
    (frameSamples 49 50 1)[0 + 1]? = some ⟨50, 49⟩ ∧ (frameSamples 49 50 1)[39 + 1]? = some ⟨50, 50⟩ := by
  decide

theorem witness_FieldsGatherMsbFirst : (0 : Nat) < 8 ∧ (7 : Nat) < 8 ∧ (0 : Nat) < 16 ∧ (15 : Nat) < 16 := by decide

theorem witness_ChecksumIsTheByteSum :
    let ss := frameSamples 30 70 0x028C806572
    41 ≤ ss.length ∧ checksumField (frameBit false 50 ss) ≠
      frameChecksum (humidityRaw (frameBit false 50 ss)) (temperatureRaw (frameBit false 50 ss)) := by decide

theorem witness_MarkerAndExtraSamplesAreIgnored :
    let ss := frameSamples 30 70 0x028C806573
    let ss' : List Sample := ⟨0xFFFF, 0xFFFF⟩ :: ss.tail ++ [⟨1, 1⟩]
    41 ≤ ss.length ∧ 41 ≤ ss'.length ∧ (∀ j : Fin 41, 1 ≤ j.val → ss[j.val]? = ss'[j.val]?) := by decide

theorem witness_FrameRoundTrip :
    let body := (frameSamples 30 70 0x028C806573).tail
    body.length = 40 ∧ 1 ≤ (50 : Half).toNat ∧
    ((0x028C : Half) ++ (0x8065 : Half) ++ frameChecksum 0x028C 0x8065 : BitVec 40) = 0x028C806573 ∧
    (∀ j : Fin 40, (body[j.val]?).map (sampleBit false 50) = some ((0x028C806573 : BitVec 40).getLsbD (39 - j.val))) := by
  decide

theorem witness_SingleBitCorruptionIsRejected :
    let ss := frameSamples 30 70 0x028C806573
    let ss' := frameSamples 30 70 0x028C806572
    decodeFrame ss false false 50 = .ok ⟨0x028C, 0x8065, 0x73, 652, -101, true⟩ ∧ 41 ≤ ss'.length ∧
    (∀ k, k < 40 → frameBit false 50 ss' k = if k = 39 then !frameBit false 50 ss k else frameBit false 50 ss k) := by
  decide

theorem timed_start :
    timed.rst = false ∧ engineExists timed.params 0 = true ∧ (timed.eng 0).phase = .settle ∧ (timed.eng 0).cnt = 0 ∧
    max (timed.eng 0).tSettle.toNat 1 = 1 ∧ max (timed.eng 0).tLow.toNat 1 = 1 ∧ max (timed.eng 0).tRel.toNat 1 = 1 ∧
    max (timed.eng 0).tResp.toNat 1 = 2 ∧ max (timed.eng 0).tRxto.toNat 1 = 2 ∧ (timed.eng 0).pin = 4 := by decide

/-- The three clauses on the line's levels, with S + L + R = 3: low so far in RESP_WAIT; high in its last tick; low in
both. The clauses on the number of ticks alone need only `timed_start`. -/
theorem witness_AttemptTimeline :
    (∀ pins ∈ ([0, 0, 0, 0] : List (BitVec 64)).drop 3, pins.getLsbD (timed.eng 0).pin.toNat = false) ∧
    (∀ pins ∈ (([0, 0, 0, 0, 0x10] : List (BitVec 64)).drop 3).dropLast,
      pins.getLsbD (timed.eng 0).pin.toNat = false) ∧
    (∀ pins, ([0, 0, 0, 0, 0x10] : List (BitVec 64)).getLast? = some pins →
      pins.getLsbD (timed.eng 0).pin.toNat = true) ∧
    (∀ pins ∈ ([0, 0, 0, 0, 0] : List (BitVec 64)).drop 3, pins.getLsbD (timed.eng 0).pin.toNat = false) := by
  have hp : (timed.eng 0).pin = 4 := by decide
  rw [hp]
  refine ⟨fun pins h => ?_, fun pins h => ?_, fun pins h => ?_, fun pins h => ?_⟩
  · obtain rfl : pins = 0 := by simpa using h
    decide
  · obtain rfl : pins = 0 := by simpa using h
    decide
  · obtain rfl : (0x10 : BitVec 64) = pins := by simpa using h
    decide
  · obtain rfl : pins = 0 := by simpa using h
    decide

/-- `configured` with all durations 1, READ written next and 14 = 3 * 4 + 2 * 1 low ticks after it. -/
def lowLine : State :=
  { configured.modEng 0 (fun x => { x with tSettle := 0, tLow := 0, tRel := 0, tResp := 0, tRetry := 0 }) with
    inputs := .op (.cmd 0 0x1) :: (List.replicate 14 (0 : BitVec 64)).map .tick }

theorem witness_ReadOnALowLineFailsAfterThreeAttempts :
    lowLine.rst = false ∧ engineExists lowLine.params 0 = true ∧ (lowLine.eng 0).busy = false ∧
    (lowLine.eng 0).cfgd = true ∧
    lowLine.inputs = .op (.cmd 0 0x1) :: (List.replicate 14 (0 : BitVec 64)).map .tick ∧
    (List.replicate 14 (0 : BitVec 64)).length = 3 * (max (lowLine.eng 0).tSettle.toNat 1 +
      max (lowLine.eng 0).tLow.toNat 1 + max (lowLine.eng 0).tRel.toNat 1 + max (lowLine.eng 0).tResp.toNat 1) +
      2 * max (lowLine.eng 0).tRetry.toNat 1 ∧
    (∀ pins ∈ List.replicate 14 (0 : BitVec 64), pins.getLsbD (lowLine.eng 0).pin.toNat = false) := by
  refine ⟨rfl, by decide, by decide, by decide, rfl, by decide, fun pins h => ?_⟩
  obtain rfl := List.eq_of_mem_replicate h
  decide

/-- The line is low in SETTLE, START_LOW and REL_WAIT (one tick each) and high after; T_RXTO is 2, so the attempt ends in
tick 6, and 5 ticks are the last before that. -/
theorem witness_AbsentSensorTimesOut :
    let levels : List (BitVec 64) := List.replicate 3 0 ++ List.replicate 3 0x10
    timed.rst = false ∧ engineExists timed.params 0 = true ∧ (timed.eng 0).phase = .settle ∧ (timed.eng 0).cnt = 0 ∧
    max (timed.eng 0).tSettle.toNat 1 + max (timed.eng 0).tLow.toNat 1 + max (timed.eng 0).tRel.toNat 1 = 3 ∧
    levels.length = 3 + max (timed.eng 0).tRxto.toNat 1 + 1 ∧
    (levels.take 5).length < 3 + max (timed.eng 0).tRxto.toNat 1 + 1 ∧
    (∀ pins ∈ levels.drop 3, pins.getLsbD (timed.eng 0).pin.toNat = true) := by
  refine ⟨rfl, by decide, by decide, by decide, by decide, by decide, by decide, fun pins h => ?_⟩
  obtain rfl : pins = 0x10 := List.eq_of_mem_replicate (n := 3) (by simpa using h)
  decide

/-- Both clauses: the wave has 7 levels, and T_RXTO is 6 in one case and 5 in the other. -/
theorem witness_WaveformIsRecorded :
    let ps : List (Nat × Nat) := [(2, 1), (1, 1)]
    let wave := ps.flatMap (fun hl => List.replicate hl.1 true ++ List.replicate hl.2 false) ++ List.replicate 2 true
    ((during .read 1 .respWait).eng 0).phase = .respWait ∧ ps ≠ [] ∧
    (∀ hl ∈ ps, 1 ≤ hl.1 ∧ hl.1 ≤ 0xFFFF ∧ 1 ≤ hl.2 ∧ hl.2 < 2) ∧ (∀ hl ∈ ps.tail, hl.1 < 2) ∧
    max ((2 : Word).extractLsb' 0 16).toNat 1 = 2 ∧ wave.length - 1 ≤ 6 ∧ 5 < wave.length - 1 := by decide

/-- Pairs that carry a frame with a threshold of 2 ticks: low for 1 tick or 2. -/
def framePairs (frame : BitVec 40) : List (Nat × Nat) :=
  (4, 1) :: (List.range 40).map (fun j => (1, if frame.getLsbD (39 - j) then 2 else 1))

theorem witness_GoodFrameIsDelivered :
    let ps := framePairs 0x028C806573
    let x := { (during .read 2 .respWait).eng 0 with tIdle := 3, bitThr := 2 }
    let wave := ps.flatMap (fun hl => List.replicate hl.1 true ++ List.replicate hl.2 false) ++ List.replicate 3 true
    x.phase = .respWait ∧ 41 ≤ params41.capDepth ∧ 41 ≤ ps.length ∧ max (x.tIdle.extractLsb' 0 16).toNat 1 = 3 ∧
    (∀ hl ∈ ps, 1 ≤ hl.1 ∧ hl.1 ≤ 0xFFFF ∧ 1 ≤ hl.2 ∧ hl.2 < 3) ∧ (∀ hl ∈ ps.tail, hl.1 < 3) ∧
    wave.length - 1 ≤ max x.tRxto.toNat 1 ∧
    (∀ j : Fin 40, (ps[j.val + 1]?).map
        (fun hl => sampleBit (x.cfg.getLsbD 17) (x.bitThr.extractLsb' 0 16) ⟨BitVec.ofNat 16 hl.1, BitVec.ofNat 16 hl.2⟩) =
      some ((0x028C806573 : BitVec 40).getLsbD (39 - j.val))) := by decide

theorem witness_AttemptsAreNonPreemptible :
    OwnershipExact twoClaims ∧ (twoClaims.eng 0).phaseOk ∧ (twoClaims.eng 0).busy = true ∧
    (∃ t, exec (.config 1) twoClaims = .next t) ∧ (∃ t, exec (.wrTIdle 0 1) twoClaims = .next t) :=
  ⟨twoClaims_ownership, twoClaims_phases 0, by decide, ⟨_, rfl⟩, ⟨_, rfl⟩⟩

theorem witness_OtherInstancesAreUntouched :
    engineOf (.capclr 1) = some 1 ∧ (0 : EngineId) ≠ 1 ∧ (∃ t, exec (.capclr 1) twoClaims = .next t) ∧
    OwnershipExact twoClaims ∧ (twoClaims.eng 0).cfgd = true :=
  ⟨rfl, by decide, ⟨_, rfl⟩, twoClaims_ownership, by decide⟩

theorem witness_ClaimsChangeOnlyByConfigAndUnconfig :
    (∃ t, exec (.cmdWrite 0 6) configured = .next t) ∧
    (∀ e, Instr.cmdWrite 0 6 ≠ .config e ∧ Instr.cmdWrite 0 6 ≠ .unconfig e ∧ Instr.cmdWrite 0 6 ≠ .cmdWrite e 4 ∧
      Instr.cmdWrite 0 6 ≠ .cmdWrite e 5) := ⟨⟨_, rfl⟩, by decide⟩

theorem witness_StepKeepsOwnership :
    OwnershipExact { twoClaims with inputs := [.tick 0] } ∧ ∃ t, step { twoClaims with inputs := [.tick 0] } = .next t :=
  ⟨twoClaims_ownership, _, rfl⟩

theorem witness_OwnersAreExclusive :
    OwnershipExact twoClaims ∧ (twoClaims.eng 1).cfgd = true ∧ (twoClaims.eng 1).chan = (twoClaims.eng 1).chan :=
  ⟨twoClaims_ownership, by decide, rfl⟩

theorem witness_StepKeepsBuffersBounded :
    BuffersBounded { holdingCount 64 with inputs := [.op (wr 0x048 5)] } ∧
    ∃ t, step { holdingCount 64 with inputs := [.op (wr 0x048 5)] } = .next t :=
  ⟨by unfold BuffersBounded; decide, _, rfl⟩

theorem witness_StepKeepsReservedBitsZero :
    ReservedBitsZero { configured with inputs := [.op (wr 0x004 0xFFFFFFFF)] } ∧
    ∃ t, step { configured with inputs := [.op (wr 0x004 0xFFFFFFFF)] } = .next t := by
  refine ⟨fun e r => ?_, _, rfl⟩
  revert e
  cases r <;> decide

theorem witness_StepKeepsSequencerConsistent :
    SequencerConsistent { capturing with inputs := [.tick 0] } ∧ ∃ t, step { capturing with inputs := [.tick 0] } = .next t := by
  refine ⟨fun e => ⟨capturing_phases e, ?_, ?_, ?_, ?_⟩, _, rfl⟩ <;> revert e
  · unfold Engine.attemptOk; decide
  · unfold Engine.driveOk; decide
  · unfold Engine.countersOk; decide
  · unfold Engine.captureOk; decide

theorem witness_StepKeepsResultsConsistent :
    ResultsConsistent { capturing with inputs := [.tick 0] } ∧ ∃ t, step { capturing with inputs := [.tick 0] } = .next t := by
  refine ⟨fun e => ⟨capturing_phases e, ?_⟩, _, rfl⟩
  revert e
  unfold Engine.resultsOk
  decide

/-- A step that appends to a trace, and a reset in CAPTURE, where the trace is not empty. -/
theorem witness_StepKeepsWindowsBalanced :
    WindowsBalanced { capturing with inputs := [.tick 0] } ∧
    (∃ t, step { capturing with inputs := [.tick 0] } = .next t) ∧
    (∀ rest, ({ capturing with inputs := [.tick 0] } : State).inputs ≠ .rst true :: rest) ∧
    WindowsBalanced { capturing with inputs := [.rst true] } ∧
    (∃ t, step { capturing with inputs := [.rst true] } = .next t) ∧
    (∃ rest, ({ capturing with inputs := [.rst true] } : State).inputs = .rst true :: rest) ∧
    (capturing.eng 0).trace ≠ [] := by
  have h : ∀ e, (capturing.eng e).phaseOk ∧ (capturing.eng e).windowsOk := by
    refine fun e => ⟨capturing_phases e, ?_⟩
    revert e
    unfold Engine.windowsOk
    decide
  exact ⟨h, ⟨_, rfl⟩, fun rest hr => by simp at hr, h, ⟨_, rfl⟩, ⟨_, rfl⟩, by decide⟩

end Sys2Proof.Tests
end

section
/-! A tick of the block, engine by engine (R8, R142, R169): after the tick steps of some of the engines, each of
these stands where its own step from the state before the tick takes it, and so does the buffer it owns; the rest of the
block is untouched. -/

namespace Sys2Proof.Machine

/-! ## The claims behind a tick -/

/-- R50: an engine that has claimed a channel shares it with no other owner. -/
theorem OwnershipExact.eq_of_chanOwnerOf {s : State} (h : OwnershipExact s) {e f : EngineId}
    (he : s.chanOwnerOf (s.eng f).chan = some e) (hf : (s.eng f).cfgd = true) : e = f := by
  have hown : s.chanOwnerOf (s.eng f).chan = some f := (h.1 f _).2 ⟨hf, rfl⟩
  rw [he] at hown
  injection hown

/-- R43, R142: an engine without a claim is IDLE. -/
theorem Engine.phaseOk.idle_of_not_cfgd {x : Engine} (h : x.phaseOk) (hc : ¬ x.cfgd = true) : x.phase = .idle :=
  Classical.byContradiction fun hi => hc (h.2 hi)

/-- R142: the tick step of an IDLE engine changes nothing. -/
theorem tickEngine_of_idle (pins : BitVec 64) {e : EngineId} {s : State} (h : (s.eng e).phase = .idle) :
    tickEngine pins e s = s := by
  simp [tickEngine, h]

/-! ## Some of the engines have taken their tick step -/

/-- The tick step of engine `e` from `s`: the engine and the buffer of its channel after it (R142). -/
def ownTick (pins : BitVec 64) (s : State) (e : EngineId) : Engine × CapBuf :=
  tickUnit s.params.capDepth (lineOf pins (s.eng e)) (s.eng e) (s.buf (s.eng e).chan)

/-- `t` is `s` after the engines in `done` have each taken one tick step on their own state and buffer in `s`. -/
structure TickedIn (pins : BitVec 64) (done : Set EngineId) (s t : State) : Prop where
  params : t.params = s.params
  eng_mem : ∀ e ∈ done, t.eng e = (ownTick pins s e).1
  eng_notMem : ∀ e, e ∉ done → t.eng e = s.eng e
  buf_mem : ∀ e ∈ done, (s.eng e).cfgd = true → t.buf (s.eng e).chan = (ownTick pins s e).2
  buf_notMem : ∀ c, (∀ e, s.chanOwnerOf c = some e → e ∉ done) → t.buf c = s.buf c

namespace TickedIn

variable {pins : BitVec 64} {done : Set EngineId} {s t : State} {f : EngineId}

theorem refl (pins : BitVec 64) (s : State) : TickedIn pins ∅ s s where
  params := rfl
  eng_mem := by simp
  eng_notMem _ _ := rfl
  buf_mem := by simp
  buf_notMem _ _ := rfl

/-- The channel of a configured engine that has not stepped holds the buffer of `s`: no other engine owns it. -/
theorem buf_chan (h : TickedIn pins done s t) (hown : OwnershipExact s) (hf : f ∉ done) (hc : (s.eng f).cfgd = true) :
    t.buf (s.eng f).chan = s.buf (s.eng f).chan :=
  h.buf_notMem _ fun _ he => hown.eq_of_chanOwnerOf he hc ▸ hf

/-- An engine without a claim may count as having stepped: its step would change nothing. -/
theorem insert_of_idle (h : TickedIn pins done s t) (hf : f ∉ done)
    (hc : ¬ (s.eng f).cfgd = true) (hi : (s.eng f).phase = .idle) : TickedIn pins (insert f done) s t where
  params := h.params
  eng_mem := by
    rintro e (rfl | he)
    · rw [h.eng_notMem e hf, ownTick, tickUnit_idle hi]
    · exact h.eng_mem e he
  eng_notMem e he := h.eng_notMem e fun hd => he (.inr hd)
  buf_mem := by
    rintro e (rfl | he) hce
    · exact absurd hce hc
    · exact h.buf_mem e he hce
  buf_notMem c hfree := h.buf_notMem c fun e he hd => hfree e he (.inr hd)

/-- A configured engine that has not stepped steps from the state and the buffer that it had in `s`. -/
theorem insert_tickEngine_of_cfgd (h : TickedIn pins done s t) (hown : OwnershipExact s) (hf : f ∉ done)
    (hc : (s.eng f).cfgd = true) : TickedIn pins (insert f done) s (tickEngine pins f t) := by
  have heng : t.eng f = s.eng f := h.eng_notMem f hf
  have hbuf : t.buf (s.eng f).chan = s.buf (s.eng f).chan := h.buf_chan hown hf hc
  refine ⟨h.params, ?_, ?_, ?_, ?_⟩
  · rintro e (rfl | he)
    · rw [tickEngine_eng_same, heng, hbuf, h.params, ownTick]
    · rw [tickEngine_eng_ne _ _ (ne_of_mem_of_not_mem he hf), h.eng_mem e he]
  · intro e he
    rw [tickEngine_eng_ne _ _ fun hef => he (.inl hef), h.eng_notMem e fun hd => he (.inr hd)]
  · rintro e (rfl | he) hce
    · rw [tickEngine_buf, heng, if_pos rfl, hbuf, h.params, ownTick]
    · have hchan : (s.eng f).chan ≠ (s.eng e).chan := fun heq =>
        hf (hown.eq_of_chanOwnerOf (heq ▸ (hown.1 e _).2 ⟨hce, rfl⟩) hc ▸ he)
      rw [tickEngine_buf, heng, if_neg hchan, h.buf_mem e he hce]
  · intro c hfree
    have hchan : (s.eng f).chan ≠ c := fun heq => hfree f ((hown.1 f c).2 ⟨hc, heq⟩) (.inl rfl)
    rw [tickEngine_buf, heng, if_neg hchan, h.buf_notMem c fun e he hd => hfree e he (.inr hd)]

/-- The tick step of an engine that has not stepped adds it to those that have. -/
theorem insert_tickEngine (h : TickedIn pins done s t) (hown : OwnershipExact s) (hph : (s.eng f).phaseOk)
    (hf : f ∉ done) : TickedIn pins (insert f done) s (tickEngine pins f t) := by
  by_cases hc : (s.eng f).cfgd = true
  · exact h.insert_tickEngine_of_cfgd hown hf hc
  · have hi : (s.eng f).phase = .idle := hph.idle_of_not_cfgd hc
    rw [tickEngine_of_idle pins ((h.eng_notMem f hf).symm ▸ hi)]
    exact h.insert_of_idle hf hc hi

end TickedIn

/-- The tick steps of distinct engines in turn are the tick steps of those that exist. -/
theorem tickedIn_foldl (pins : BitVec 64) {s : State} (hown : OwnershipExact s) (hph : ∀ e, (s.eng e).phaseOk)
    (ids : List EngineId) (hn : ids.Nodup) :
    TickedIn pins {e | e ∈ ids ∧ engineExists s.params e = true} s
      (ids.foldl (fun s e => if engineExists s.params e then tickEngine pins e s else s) s) := by
  induction ids using List.reverseRecOn with
  | nil => simpa using TickedIn.refl pins s
  | append_singleton ids f ih =>
    obtain ⟨hf, hn⟩ : f ∉ ids ∧ ids.Nodup := by simpa [← List.concat_eq_append, List.nodup_concat] using hn
    have h := ih hn
    rw [List.foldl_append, List.foldl_cons, List.foldl_nil, h.params]
    by_cases hex : engineExists s.params f = true
    · have hset : {e | e ∈ ids ++ [f] ∧ engineExists s.params e = true} =
          insert f {e | e ∈ ids ∧ engineExists s.params e = true} := by
        ext e
        by_cases he : e = f <;> simp [he, hex]
      rw [if_pos hex, hset]
      exact h.insert_tickEngine hown (hph f) fun hd => hf hd.1
    · have hset : {e | e ∈ ids ++ [f] ∧ engineExists s.params e = true} =
          {e | e ∈ ids ∧ engineExists s.params e = true} := by
        ext e
        by_cases he : e = f <;> simp [he, hex]
      rw [if_neg hex, hset]
      exact h

/-! ## The tick of the whole block -/

/-- R8, R142: a tick of the block is one tick step of every existing engine. -/
theorem tickedIn_tickEngines (pins : BitVec 64) {s : State} (hown : OwnershipExact s) (hph : ∀ e, (s.eng e).phaseOk) :
    TickedIn pins {e | engineExists s.params e = true} s (tickEngines pins s) := by
  have hall : ∀ e : EngineId, e ∈ engineIds := by decide
  simpa [hall, tickEngines] using tickedIn_foldl pins hown hph engineIds (by decide)

/-- R169: a tick of the block leaves the owner tables, the ports, the arrivals and the tick count as they were. -/
theorem tickEngines_frame (pins : BitVec 64) (s : State) :
    SameOwners s (tickEngines pins s) ∧ (tickEngines pins s).rdata = s.rdata ∧ (tickEngines pins s).rst = s.rst ∧
    (tickEngines pins s).inputs = s.inputs ∧ (tickEngines pins s).now = s.now :=
  tickEngines_induct (P := fun t => SameOwners s t ∧ t.rdata = s.rdata ∧ t.rst = s.rst ∧ t.inputs = s.inputs ∧
    t.now = s.now) pins (fun _ _ _ h => h) ⟨⟨fun _ => rfl, fun _ => rfl⟩, rfl, rfl, rfl, rfl⟩

/-- With `rst` released, a tick pulse is counted and every existing engine steps. -/
theorem tickPulse_of_released (pins : BitVec 64) {s : State} (hr : s.rst = false) :
    tickPulse pins s = tickEngines pins { s with now := s.now + 1 } := by
  simp [tickPulse, hr]

/-- A step takes the tick at the head of the arrivals, or, with none listed, one with the free pin levels (Log 3, Log 4). -/
theorem step_of_tick {s : State} {pins : BitVec 64} {rest : List Input}
    (h : s.inputs = .tick pins :: rest ∨ (s.inputs = [] ∧ rest = [] ∧ pins = Config.freePins s.now)) :
    step s = .next (tickPulse pins { s with inputs := rest }) := by
  rcases h with h | ⟨h, rfl, rfl⟩
  · simp [step, nextInput, h]
  · simp only [step, nextInput, h]
    rw [← h]

/-- Settles O7: the step is the tick steps of the existing engines, each from its state before the tick, because R50
gives no two configured engines the same channel and R142 leaves the others IDLE. -/
theorem tickStepsEveryInstanceOnce : Obligations.TickStepsEveryInstanceOnce := by
  intro s pins rest hr hown hph hin
  have hstep : step s = .next (tickEngines pins { s with inputs := rest, now := s.now + 1 }) := by
    rw [step_of_tick hin, tickPulse_of_released pins (s := { s with inputs := rest }) hr]
  have hticked := tickedIn_tickEngines pins (s := { s with inputs := rest, now := s.now + 1 }) hown hph
  obtain ⟨howners, hrdata, hrst, hinputs, hnow⟩ := tickEngines_frame pins { s with inputs := rest, now := s.now + 1 }
  refine ⟨_, hstep, hticked.eng_mem, ?_, hticked.buf_mem, ?_, howners, hticked.params, hrdata, hrst, hinputs, hnow⟩
  · exact fun e he => hticked.eng_notMem e (by simp [he])
  · exact fun c hfree => hticked.buf_notMem c fun e he => by simp [hfree e he]

end Sys2Proof.Machine
end

section
/-! The claims (R48-R50): which operations keep every engine's claim and the owner tables, and why CONFIG and UNCONFIG
keep the owner tables exact. -/

namespace Sys2Proof.Machine

/-! ## Operations that keep every claim -/

/-- R48: an engine's claim: whether it has one, and the pin and channel that it latched. -/
def Engine.claim (x : Engine) : Bool × BitVec 6 × BitVec 3 := (x.cfgd, x.pin, x.chan)

theorem Engine.claim_eq_iff {x y : Engine} :
    x.claim = y.claim ↔ x.cfgd = y.cfgd ∧ x.pin = y.pin ∧ x.chan = y.chan := by
  simp [Engine.claim]

/-- The owner tables and the claim of every engine are the same. -/
def SameClaims (s t : State) : Prop := SameOwners s t ∧ ∀ f, (t.eng f).claim = (s.eng f).claim

theorem SameClaims.refl (s : State) : SameClaims s s := ⟨⟨fun _ => rfl, fun _ => rfl⟩, fun _ => rfl⟩

theorem SameClaims.trans {s t u : State} (h : SameClaims s t) (h' : SameClaims t u) : SameClaims s u := by
  obtain ⟨⟨hchan, hpin⟩, hclaim⟩ := h
  obtain ⟨⟨hchan', hpin'⟩, hclaim'⟩ := h'
  exact ⟨⟨fun c => (hchan' c).trans (hchan c), fun p => (hpin' p).trans (hpin p)⟩,
    fun f => (hclaim' f).trans (hclaim f)⟩

/-- Exactness of the owner tables is about claims and owner tables only. -/
theorem OwnershipExact.of_sameClaims {s t : State} (hs : OwnershipExact s) (h : SameClaims s t) :
    OwnershipExact t := by
  obtain ⟨⟨hchan, hpin⟩, hclaim⟩ := h
  refine ⟨fun e c => ?_, fun e p => ?_⟩ <;> obtain ⟨hc, hp, hch⟩ := Engine.claim_eq_iff.1 (hclaim e)
  · rw [hchan, hc, hch, hs.1]
  · rw [hpin, hc, hp, hs.2]

theorem sameClaims_modEng (s : State) (e : EngineId) (g : Engine → Engine)
    (h : ∀ x, (g x).claim = x.claim) : SameClaims s (s.modEng e g) := by
  refine ⟨⟨fun _ => rfl, fun _ => rfl⟩, fun f => ?_⟩
  by_cases hf : f = e
  · subst hf; rw [State.eng_modEng_same, h]
  · rw [State.eng_modEng_ne _ _ hf]

theorem sameClaims_setBuf (s : State) (c : BitVec 3) (b : CapBuf) : SameClaims s (s.setBuf c b) :=
  ⟨⟨fun _ => rfl, fun _ => rfl⟩, fun _ => rfl⟩

/-- R108. -/
theorem claim_configWrite (r : RwReg) (w : Word) (x : Engine) : (configWrite r w x).claim = x.claim := by
  unfold configWrite
  split
  · rfl
  · cases r <;> rfl

/-- R106, R107. -/
theorem claim_startEffect (m : Mode) (x : Engine) : (startEffect m x).claim = x.claim := by
  unfold startEffect
  dsimp only
  split <;> rfl

theorem claim_finish (code : ErrCode) (x : Engine) : (finish code x).claim = x.claim := rfl

/-- R196, R197. -/
theorem claim_publish (r : DecodeResult) (x : Engine) : (publish r x).claim = x.claim := by
  cases r <;> rfl

/-- R110. -/
theorem sameClaims_appendSample (e : EngineId) (w : Word) (s : State) : SameClaims s (appendSample e w s) := by
  unfold appendSample
  dsimp only
  split
  · exact sameClaims_modEng s e flagWerr fun _ => rfl
  · exact sameClaims_setBuf ..

/-- R105. -/
theorem sameClaims_decodeEffect (e : EngineId) (s : State) : SameClaims s (decodeEffect e s) := by
  refine (sameClaims_modEng s e clearResults fun _ => rfl).trans ?_
  unfold decodeEffect
  dsimp only
  split
  · exact sameClaims_modEng _ e _ fun x => (claim_finish ..).trans (claim_publish ..)
  · exact sameClaims_modEng _ e _ fun _ => by rfl

/-- R104. -/
theorem sameClaims_capclrEffect (e : EngineId) (s : State) : SameClaims s (capclrEffect e s) := by
  unfold capclrEffect
  dsimp only
  split
  · exact (sameClaims_setBuf s _ _).trans (sameClaims_modEng _ e _ fun _ => by rfl)
  · exact sameClaims_modEng s e _ fun _ => by rfl

/-- R100: acceptance keeps the claims when the command's own effect does. -/
theorem sameClaims_acceptCommand {e : EngineId} {effect : State → State} (heffect : ∀ u, SameClaims u (effect u))
    (s : State) : SameClaims s (acceptCommand e effect s) := by
  unfold acceptCommand
  split
  · exact sameClaims_modEng s e _ fun _ => by rfl
  · exact (sameClaims_modEng s e clearDoneErr fun _ => rfl).trans (heffect _)

/-- R106, R107: READ and TRANSACT keep the claims. -/
theorem sameClaims_acceptStart (e : EngineId) (m : Mode) (s : State) :
    SameClaims s (acceptCommand e (fun s => s.modEng e (startEffect m)) s) :=
  sameClaims_acceptCommand (fun u => sameClaims_modEng u e _ (claim_startEffect m)) s

/-- R80, R87: a command word that is not reserved is its code. -/
theorem eq_cmdCode_of_not_reserved {w : Word} (h : ¬ cmdReserved w = true) : w = (cmdCode w).setWidth 32 := by
  have hmbz : w.extractLsb' 4 28 = 0 := by
    simp only [cmdReserved, cmdMbz, Bool.or_eq_true, not_or] at h
    exact Classical.byContradiction fun hne => h.1 (decide_eq_true hne)
  have hmbz := congrArg BitVec.toNat hmbz
  apply BitVec.eq_of_toNat_eq
  simp [BitVec.extractLsb'_toNat, cmdCode, Nat.shiftRight_eq_div_pow] at hmbz ⊢
  omega

/-- R100: of the words written to CMD, only CONFIG's and UNCONFIG's change a claim. -/
theorem sameClaims_commandWrite {e : EngineId} {w : Word} (hconfig : w ≠ 4) (hunconfig : w ≠ 5) (s : State) :
    SameClaims s (commandWrite e w s) := by
  unfold commandWrite
  split
  · exact sameClaims_modEng s e _ fun _ => by rfl
  · next hres =>
    have hword (c : BitVec 4) (h : (cmdCode w).toNat = c.toNat) : w = c.setWidth 32 :=
      BitVec.eq_of_toNat_eq h ▸ eq_cmdCode_of_not_reserved hres
    split
    · exact .refl s
    · exact sameClaims_acceptStart ..
    · exact sameClaims_acceptStart ..
    · exact sameClaims_acceptCommand (sameClaims_decodeEffect e) s
    · next h => exact absurd (hword 4 h) hconfig
    · next h => exact absurd (hword 5 h) hunconfig
    · exact sameClaims_acceptCommand (sameClaims_capclrEffect e) s
    · exact sameClaims_modEng s e _ fun _ => by rfl

/-- R48, R49: every operation but CONFIG and UNCONFIG, in either of their forms, keeps the claims. -/
theorem sameClaims_exec {i : Instr} {s t : State} (h : exec i s = .next t)
    (hi : ∀ e, i ≠ .config e ∧ i ≠ .unconfig e ∧ i ≠ .cmdWrite e 4 ∧ i ≠ .cmdWrite e 5) : SameClaims s t := by
  cases i with
  | config e => exact absurd rfl (hi e).1
  | unconfig e => exact absurd rfl (hi e).2.1
  | cmdWrite e d =>
    obtain ⟨-, -, h4, h5⟩ := hi e
    injection h with h
    exact h ▸ sameClaims_commandWrite (fun hd => h4 (hd ▸ rfl)) (fun hd => h5 (hd ▸ rfl)) s
  | subwordOrMisaligned a => exact absurd h (by simp [exec, execSubwordOrMisaligned])
  | read e | transact e => injection h with h; exact h ▸ sameClaims_acceptStart ..
  | decode e => injection h with h; exact h ▸ sameClaims_acceptCommand (sameClaims_decodeEffect e) s
  | capclr e => injection h with h; exact h ▸ sameClaims_acceptCommand (sameClaims_capclrEffect e) s
  | capWdataWrite e d => injection h with h; exact h ▸ sameClaims_appendSample ..
  | wrCtrl e d | wrCfg e d | wrTSettle e d | wrTLow e d | wrTRel e d | wrTResp e d | wrTRxto e d | wrTIdle e d
  | wrTRetry e d | wrBitThr e d => injection h with h; exact h ▸ sameClaims_modEng s e _ (claim_configWrite _ _)
  | statusW1c e d => injection h with h; exact h ▸ sameClaims_modEng s e _ fun _ => by rfl
  | reservedCmd7 e | reservedCmd8F e _ | reservedCmdMbz e _ _ =>
    injection h with h; exact h ▸ sameClaims_modEng s e _ fun _ => by rfl
  | regRead e off => injection h with h; exact h ▸ .refl s
  | nop _ | roWriteAttlog _ _ | roWriteResHum _ _ | roWriteResTemp _ _ | roWriteResRaw _ _ | roWriteResCsum _ _
  | roWriteCapCount _ _ | roWriteAct _ _ | roWriteCapData _ _ _ | reservedWrite _ _ _ =>
    injection h with h; exact h ▸ .refl s

/-- R142, R169. -/
theorem sameClaims_tickEngine (pins : BitVec 64) (e : EngineId) (s : State) :
    SameClaims s (tickEngine pins e s) := by
  refine ⟨⟨fun _ => rfl, fun _ => rfl⟩, fun f => ?_⟩
  by_cases hf : f = e
  · subst hf
    rw [tickEngine_eng_same, Engine.claim_eq_iff]
    exact tickUnit_claim ..
  · rw [tickEngine_eng_ne _ _ hf]

theorem sameClaims_tickPulse (pins : BitVec 64) (s : State) : SameClaims s (tickPulse pins s) :=
  tickPulse_induct (P := SameClaims s) pins (fun _ h => h) (fun _ _ _ h => h.trans (sameClaims_tickEngine ..)) (.refl s)

/-! ## Dropping and taking a claim -/

section OwnerTable

/-! One owner table: `claims f k` says that engine `f` has claimed the channel or pin `k`. -/

variable {κ : Type} {owner owner' : κ → Option EngineId} {claims claims' : EngineId → κ → Prop} {e : EngineId}

/-- Freeing everything that one engine owned fits that engine losing its claim. -/
theorem ownerTable_drop [DecidablePred (claims e)] (h : ∀ f k, owner k = some f ↔ claims f k)
    (howner : ∀ k, owner' k = if claims e k then none else owner k) (hself : ∀ k, ¬ claims' e k)
    (hother : ∀ f, f ≠ e → ∀ k, claims' f k ↔ claims f k) (f : EngineId) (k : κ) :
    owner' k = some f ↔ claims' f k := by
  rw [howner]
  by_cases hf : f = e
  · subst hf
    simp [hself, h]
  · rw [hother f hf]
    split
    · next hk => simp [← h, (h e k).2 hk, Ne.symm hf]
    · exact h f k

/-- Naming an engine as the owner of something free fits that engine claiming just that. -/
theorem ownerTable_take [DecidableEq κ] {c : κ} (h : ∀ f k, owner k = some f ↔ claims f k) (hfree : owner c = none)
    (howner : ∀ k, owner' k = if c = k then some e else owner k) (hnone : ∀ k, ¬ claims e k)
    (hself : ∀ k, claims' e k ↔ c = k) (hother : ∀ f, f ≠ e → ∀ k, claims' f k ↔ claims f k)
    (f : EngineId) (k : κ) : owner' k = some f ↔ claims' f k := by
  rw [howner]
  by_cases hf : f = e
  · subst hf
    simp [hself, h, hnone]
  · rw [hother f hf, ← h]
    split
    · next hk => simp [← hk, hfree, Ne.symm hf]
    · rfl

end OwnerTable

/-- R103: without its claim an engine owns nothing, and the others own what they owned. -/
theorem OwnershipExact.dropClaim {s : State} (hs : OwnershipExact s) (e : EngineId) :
    OwnershipExact (dropClaim e s) := by
  obtain ⟨hself, hother, hchan, hpin, -⟩ := dropClaim_spec e s
  exact ⟨ownerTable_drop hs.1 hchan (by simp [hself]) (fun f hf _ => by rw [hother f hf]),
    ownerTable_drop hs.2 hpin (by simp [hself]) (fun f hf _ => by rw [hother f hf])⟩

/-- R102: an engine without a claim may take a channel and a pin that nobody owns. -/
theorem OwnershipExact.takeClaim {s : State} (hs : OwnershipExact s) {e : EngineId} {p : BitVec 6} {c : BitVec 3}
    (he : (s.eng e).cfgd = false) (hc : s.chanOwnerOf c = none) (hp : s.pinOwnerOf p = none) :
    OwnershipExact (takeClaim e p c s) := by
  obtain ⟨hself, hother, hchan, hpin, -⟩ := takeClaim_spec e p c s
  exact ⟨ownerTable_take hs.1 hc hchan (by simp [he]) (by simp [hself]) (fun f hf _ => by rw [hother f hf]),
    ownerTable_take hs.2 hp hpin (by simp [he]) (by simp [hself]) (fun f hf _ => by rw [hother f hf])⟩

/-- R102. -/
theorem OwnershipExact.configEffect {s : State} (hs : OwnershipExact s) (e : EngineId) :
    OwnershipExact (configEffect e s) := by
  have hdrop : OwnershipExact (Machine.dropClaim e (s.modEng e clearResults)) :=
    (hs.of_sameClaims (sameClaims_modEng s e clearResults fun _ => rfl)).dropClaim e
  have hfree : ((Machine.dropClaim e (s.modEng e clearResults)).eng e).cfgd = false := by
    rw [(dropClaim_spec e _).1]
  unfold Machine.configEffect
  dsimp only
  split
  · next hallowed =>
    simp only [claimAllowed, Bool.and_eq_true, decide_eq_true_eq] at hallowed
    obtain ⟨⟨-, hc⟩, hp⟩ := hallowed
    exact (hdrop.takeClaim hfree hc hp).of_sameClaims (sameClaims_modEng _ e _ fun _ => by rfl)
  · exact hdrop.of_sameClaims (sameClaims_modEng _ e _ fun _ => by rfl)

/-- R103. -/
theorem OwnershipExact.unconfigEffect {s : State} (hs : OwnershipExact s) (e : EngineId) :
    OwnershipExact (unconfigEffect e s) := by
  have hdrop : OwnershipExact (Machine.dropClaim e (s.modEng e clearResults)) :=
    (hs.of_sameClaims (sameClaims_modEng s e clearResults fun _ => rfl)).dropClaim e
  unfold Machine.unconfigEffect
  exact hdrop.of_sameClaims (sameClaims_modEng _ e _ fun _ => by rfl)

/-- R270, R271: a reset drops every claim and empties the owner tables. -/
theorem OwnershipExact.resetInput {s : State} (hs : OwnershipExact s) (level : Bool) :
    OwnershipExact (resetInput level s) := by
  cases level with
  | false => exact hs
  | true =>
    change OwnershipExact (State.resetWith s.params)
    exact ⟨fun e c => by simp [Engine.reset], fun e p => by simp [Engine.reset]⟩

/-! ## The obligations -/

/-- Settles O54: every part of a step keeps the claims and the owner tables, but CONFIG, UNCONFIG and reset, and these
move the two together. -/
theorem stepKeepsOwnership : Obligations.StepKeepsOwnership := by
  have haccept {s : State} (hs : OwnershipExact s) (e : EngineId) : OwnershipExact (s.modEng e clearDoneErr) :=
    hs.of_sameClaims (sameClaims_modEng s e _ fun _ => by rfl)
  apply step_keeps
  case hin | hrd => exact fun _ _ hs => hs
  case hrst => exact fun _ level hs => hs.resetInput level
  case htick => exact fun s pins hs => hs.of_sameClaims (sameClaims_tickPulse pins s)
  case hflag => exact fun s e hs => hs.of_sameClaims (sameClaims_modEng s e _ fun _ => by rfl)
  case hcfgw => exact fun s e _ _ hs => hs.of_sameClaims (sameClaims_modEng s e _ (claim_configWrite _ _))
  case hst => exact fun s e d hs => hs.of_sameClaims (sameClaims_modEng s e _ fun _ => by rfl)
  case happ => exact fun s e d hs => hs.of_sameClaims (sameClaims_appendSample e d s)
  case hstart => exact fun _ e m hs _ => (haccept hs e).of_sameClaims (sameClaims_modEng _ e _ (claim_startEffect m))
  case hdec => exact fun _ e hs _ => (haccept hs e).of_sameClaims (sameClaims_decodeEffect e _)
  case hclr => exact fun _ e hs _ => (haccept hs e).of_sameClaims (sameClaims_capclrEffect e _)
  case hcon => exact fun _ e hs _ => (haccept hs e).configEffect e
  case hunc => exact fun _ e hs _ => (haccept hs e).unconfigEffect e

/-- Settles O53, from the operations and the tick that keep every claim. -/
theorem claimsChangeOnlyByConfigAndUnconfig : Obligations.ClaimsChangeOnlyByConfigAndUnconfig := by
  refine ⟨fun i s t h hi => ?_, fun s pins => ?_⟩
  · obtain ⟨howners, hclaim⟩ := sameClaims_exec h hi
    exact ⟨howners, fun f => Engine.claim_eq_iff.1 (hclaim f)⟩
  · obtain ⟨howners, hclaim⟩ := sameClaims_tickPulse pins s
    exact ⟨howners, fun f => Engine.claim_eq_iff.1 (hclaim f)⟩

/-- Settles O55: both engines are the one owner that the table names. -/
theorem ownersAreExclusive : Obligations.OwnersAreExclusive := by
  rintro s e f hown he hf (hchan | hpin)
  · exact hown.eq_of_chanOwnerOf ((hown.1 e _).2 ⟨he, hchan⟩) hf
  · exact Option.some.inj (((hown.2 e _).2 ⟨he, hpin⟩).symm.trans ((hown.2 f _).2 ⟨hf, rfl⟩))

end Sys2Proof.Machine
end

section
/-! The buffers stay within CAP_DEPTH (R49) and the configuration registers within their masks (R21). -/

namespace Sys2Proof.Machine

/-! ## Buffers -/

theorem BuffersBounded.setBuf {s : State} (hs : BuffersBounded s) (c : BitVec 3) {b : CapBuf}
    (hb : b.count ≤ s.params.capDepth) : BuffersBounded (s.setBuf c b) := fun d => by
  rw [State.buf_setBuf]
  split
  · exact hb
  · exact hs d

/-- Only the buffers and CAP_DEPTH matter. -/
theorem BuffersBounded.of_same {s t : State} (hs : BuffersBounded s) (hp : t.params = s.params)
    (hb : ∀ c, t.buf c = s.buf c) : BuffersBounded t := fun c => by
  rw [hb, hp]
  exact hs c

/-- A tick step does not overfill its buffer (R163). -/
theorem tickUnit_count_le {depth : Nat} {b : CapBuf} (hb : b.count ≤ depth) (line : Bool) (x : Engine) :
    (tickUnit depth line x b).2.count ≤ depth := by
  obtain h | h | h := tickUnit_buf depth line x b <;> rw [h]
  · exact hb
  · exact Nat.zero_le depth
  · exact CapBuf.push_count_le _ hb

theorem BuffersBounded.tickPulse {s : State} (hs : BuffersBounded s) (pins : BitVec 64) :
    BuffersBounded (tickPulse pins s) :=
  tickPulse_induct (P := BuffersBounded) pins (fun _ h => h)
    (fun u e _ h => BuffersBounded.setBuf (s := u.setEng e _) h _ (tickUnit_count_le (h _) ..)) hs

/-- R110. -/
theorem BuffersBounded.appendSample {s : State} (hs : BuffersBounded s) (e : EngineId) (w : Word) :
    BuffersBounded (appendSample e w s) := by
  unfold Machine.appendSample
  dsimp only
  split
  · exact hs
  · exact hs.setBuf _ (CapBuf.push_count_le _ (hs _))

theorem BuffersBounded.dropClaim {s : State} (hs : BuffersBounded s) (e : EngineId) :
    BuffersBounded (dropClaim e s) := by
  obtain ⟨-, -, -, -, hbuf, hparams, -⟩ := dropClaim_spec e s
  exact hs.of_same hparams hbuf

/-- R102: the claimed buffer is emptied. -/
theorem BuffersBounded.configEffect {s : State} (hs : BuffersBounded s) (e : EngineId) :
    BuffersBounded (configEffect e s) := by
  have hdrop : BuffersBounded (Machine.dropClaim e (s.modEng e clearResults)) :=
    BuffersBounded.dropClaim (s := s.modEng e clearResults) hs e
  unfold Machine.configEffect
  dsimp only
  split
  · exact hdrop.setBuf _ (Nat.zero_le _)
  · exact hdrop

/-- R104: the owned buffer is emptied. -/
theorem BuffersBounded.capclrEffect {s : State} (hs : BuffersBounded s) (e : EngineId) :
    BuffersBounded (capclrEffect e s) := by
  unfold Machine.capclrEffect
  dsimp only
  split
  · exact hs.setBuf _ (Nat.zero_le _)
  · exact hs

/-- R105: DECODE only reads the buffer. -/
theorem BuffersBounded.decodeEffect {s : State} (hs : BuffersBounded s) (e : EngineId) :
    BuffersBounded (decodeEffect e s) := by
  unfold Machine.decodeEffect
  dsimp only
  split <;> exact hs

theorem BuffersBounded.resetInput {s : State} (hs : BuffersBounded s) (level : Bool) :
    BuffersBounded (resetInput level s) := by
  cases level with
  | false => exact hs
  | true =>
    change BuffersBounded (State.resetWith s.params)
    exact fun c => by simp [CapBuf.reset]

/-- Settles O56: a buffer is written by a sample, which is pushed below CAP_DEPTH only, or emptied. -/
theorem stepKeepsBuffersBounded : Obligations.StepKeepsBuffersBounded := by
  apply step_keeps
  case hin | hrd | hflag => exact fun _ _ hs => hs
  case hcfgw => exact fun _ _ _ _ hs => hs
  case hst => exact fun _ _ _ hs => hs
  case hstart => exact fun _ _ _ hs _ => hs
  case hrst => exact fun _ level hs => hs.resetInput level
  case htick => exact fun _ pins hs => hs.tickPulse pins
  case happ => exact fun _ e d hs => hs.appendSample e d
  case hdec => exact fun s e hs _ => BuffersBounded.decodeEffect (s := s.modEng e clearDoneErr) hs e
  case hcon => exact fun s e hs _ => BuffersBounded.configEffect (s := s.modEng e clearDoneErr) hs e
  case hunc =>
    exact fun s e hs _ => BuffersBounded.dropClaim (s := (s.modEng e clearDoneErr).modEng e clearResults) hs e
  case hclr => exact fun s e hs _ => BuffersBounded.capclrEffect (s := s.modEng e clearDoneErr) hs e

/-! ## Reserved bits -/

/-- R21: the reserved bits of one engine's configuration registers are 0. -/
def Engine.reservedBitsZero (x : Engine) : Prop := ∀ r : RwReg, r.get x &&& r.mask = r.get x

/-- Only the configuration registers matter. -/
theorem Engine.reservedBitsZero.of_same {x y : Engine} (hx : x.reservedBitsZero) (h : ∀ r : RwReg, r.get y = r.get x) :
    y.reservedBitsZero := fun r => by
  rw [h]
  exact hx r

theorem RwReg.get_set (x : Engine) (r r' : RwReg) (w : Word) :
    r'.get (r.set x w) = if r = r' then w else r'.get x := by
  cases r <;> cases r' <;> rfl

/-- R108: what a configuration write stores is masked. -/
theorem Engine.reservedBitsZero.configWrite {x : Engine} (hx : x.reservedBitsZero) (r : RwReg) (w : Word) :
    (configWrite r w x).reservedBitsZero := by
  unfold Machine.configWrite
  split
  · exact hx
  · intro r'
    rw [RwReg.get_set]
    split
    · next h => rw [h, BitVec.and_assoc, BitVec.and_self]
    · exact hx r'

/-- R106, R107: starting a command leaves the configuration registers alone. -/
theorem startEffect_config (m : Mode) (x : Engine) (r : RwReg) : r.get (startEffect m x) = r.get x := by
  unfold startEffect
  dsimp only
  split <;> cases r <;> rfl

/-- R196, R197: publishing a result leaves the configuration registers alone. -/
theorem publish_config (d : DecodeResult) (x : Engine) (r : RwReg) : r.get (publish d x) = r.get x := by
  cases d <;> cases r <;> rfl

/-- R113: completing a command leaves the configuration registers alone. -/
theorem finish_config (code : ErrCode) (x : Engine) (r : RwReg) : r.get (finish code x) = r.get x := by
  cases r <;> rfl

/-- Settles O57: a configuration write stores masked words, and nothing else writes these registers. -/
theorem stepKeepsReservedBitsZero : Obligations.StepKeepsReservedBitsZero := by
  apply step_keeps_engines (P := Engine.reservedBitsZero)
  case hreset => exact fun r => by cases r <;> decide
  case htick => exact fun depth line x b hx => hx.of_same (tickUnit_config depth line x b)
  case hcfgw => exact fun _ r d hx => hx.configWrite r d
  case hflag | hflag2 => exact fun _ hx => hx
  case hst => exact fun _ _ hx => hx
  case hstart => exact fun x m hx _ => Engine.reservedBitsZero.of_same (x := clearDoneErr x) hx (startEffect_config m _)
  case hdec =>
    intro x b hx _
    have hclear : (clearResults (clearDoneErr x)).reservedBitsZero := hx
    dsimp only
    split
    · exact hclear.of_same fun r => (finish_config ..).trans (publish_config ..)
    · exact hclear.of_same (finish_config _ _)
  case hcon1 => exact fun _ _ _ hx _ => hx
  case hcon2 | hunc => exact fun _ hx _ => hx
  case hclr => exact fun _ _ hx _ => hx

end Sys2Proof.Machine
end

section
/-! What a tick step of one engine can do (R131-R134, R161, R222) and how an attempt ends (R221), said once for the
invariants of the sequencer, the results and the trace. -/

namespace Sys2Proof.Machine

/-! ## The tick step -/

/-- R54: the limit register of a phase that counts with `st.cnt`. -/
def Engine.cntLimit (x : Engine) : Option Word :=
  match x.phase with
  | .settle => some x.tSettle
  | .startLow => some x.tLow
  | .relWait => some x.tRel
  | .respWait => some x.tResp
  | .retryWait => some x.tRetry
  | .idle | .capture => none

/-- R161, R164: the engine after the sample of a CAPTURE tick, which is counted in `st.rx`. -/
def captureTick (depth : Nat) (line : Bool) (x : Engine) (b : CapBuf) : Engine :=
  { (captureSample depth line x b).1 with rx := sat32 ((captureSample depth line x b).1.rx.toNat + 1) }

/-- The tick step of an engine that is not IDLE: the phase goes on, or it is left the way its rule says. -/
theorem tickUnit_cases {Q : Engine → Prop} (depth : Nat) (line : Bool) (x : Engine) (b : CapBuf)
    (idle : x.phase = .idle → Q x)
    (count : ∀ limit, x.cntLimit = some limit → (countTick x).cnt.toNat < max1 limit → Q (countTick x))
    (settled : x.phase = .settle → Q { driveGpio Gpio.driveLow x with phase := .startLow, cnt := 0 })
    (started : x.phase = .startLow → Q { driveGpio Gpio.inputPullUp x with phase := .relWait, cnt := 0 })
    (released : x.phase = .relWait → Q { x with phase := .respWait, cnt := 0 })
    (answered : x.phase = .respWait → Q (captureStart x))
    (silent : x.phase = .respWait → Q (attemptEnd .noResponse (countTick x)))
    (capturing : x.phase = .capture → captureComplete (captureTick depth line x b) = false →
      captureExpired (captureTick depth line x b) = false → Q (captureTick depth line x b))
    (exit : x.phase = .capture → ∀ kind b', Q (captureExit kind (captureTick depth line x b) b'))
    (retry : x.phase = .retryWait → Q (beginAttempt (x.attempt + 1) x)) :
    Q (tickUnit depth line x b).1 := by
  have hcount {limit : Word} (hlim : x.cntLimit = some limit) (hr : ¬ countReached limit (countTick x) = true) :
      Q (countTick x) := count limit hlim (by simpa [countReached] using hr)
  unfold tickUnit
  split
  case h_1 h => exact idle h
  case h_2 h =>
    unfold tickSettle
    dsimp only
    split
    · exact settled h
    · next hr => exact hcount (limit := x.tSettle) (by simp [Engine.cntLimit, h]) hr
  case h_3 h =>
    unfold tickStartLow
    dsimp only
    split
    · exact started h
    · next hr => exact hcount (limit := x.tLow) (by simp [Engine.cntLimit, h]) hr
  case h_4 h =>
    unfold tickRelWait
    dsimp only
    split
    · exact released h
    · next hr => exact hcount (limit := x.tRel) (by simp [Engine.cntLimit, h]) hr
  case h_5 h =>
    unfold tickRespWait
    split
    · exact answered h
    · dsimp only
      split
      · exact silent h
      · next hr => exact hcount (limit := x.tResp) (by simp [Engine.cntLimit, h]) hr
  case h_6 h =>
    unfold tickCapture
    dsimp only
    split
    · exact exit h .complete (captureSample depth line x b).2
    · next hc =>
      split
      · exact exit h .timeout (captureSample depth line x b).2
      · next he => exact capturing h (Bool.eq_false_of_not_eq_true hc) (Bool.eq_false_of_not_eq_true he)
  case h_7 h =>
    unfold tickRetryWait
    dsimp only
    split
    · exact retry h
    · next hr => exact hcount (limit := x.tRetry) (by simp [Engine.cntLimit, h]) hr

/-- A phase that counts is not IDLE. -/
theorem Engine.not_idle_of_cntLimit {x : Engine} {limit : Word} (h : x.cntLimit = some limit) : x.phase ≠ .idle := by
  intro hi
  simp [Engine.cntLimit, hi] at h

/-- The sample of a CAPTURE tick writes the capture's own hidden state only. -/
theorem captureTick_frame (depth : Nat) (line : Bool) (x : Engine) (b : CapBuf) :
    ∃ level len seen pend high rx, captureTick depth line x b =
      { x with curLevel := level, curLen := len, edgeSeen := seen, pendValid := pend, pendHigh := high, rx := rx } := by
  unfold captureTick
  obtain ⟨-, h⟩ | ⟨-, -, h⟩ | ⟨-, -, h⟩ := captureSample_cases depth line x b <;> rw [h] <;>
    exact ⟨_, _, _, _, _, _, rfl⟩

/-! ## The end of an attempt -/

/-- R221: the end of an attempt completes the command, or a failed READ waits for its next attempt. -/
theorem attemptEnd_outcome (code : ErrCode) (x : Engine) :
    (∃ a c, attemptEnd code x = finish c { emit (.attEnd x.attempt code) x with attlog := a }) ∨
    (∃ a, code ≠ .none ∧ x.mode = .read ∧ x.attempt ≠ 3 ∧
      attemptEnd code x = { emit (.attEnd x.attempt code) x with attlog := a, phase := .retryWait, cnt := 0 }) := by
  unfold attemptEnd
  dsimp only
  split
  · exact .inl ⟨x.attlog, .none, rfl⟩
  · next hcode =>
    split
    · exact .inl ⟨_, code, rfl⟩
    · next hmode =>
      split
      · next hlt =>
        refine .inr ⟨_, hcode, ?_, ?_, rfl⟩
        · cases h : x.mode with
          | read => rfl
          | transact => exact absurd h hmode
        · intro h
          simp [h] at hlt
      · exact .inl ⟨_, .totalFailure, rfl⟩

/-! ## BUSY and the phase -/

theorem Engine.phaseOk_idle_iff {x : Engine} (h : x.phase = .idle) : x.phaseOk ↔ x.busy = false := by
  simp [Engine.phaseOk, h]

theorem Engine.phaseOk_active_iff {x : Engine} (h : x.phase ≠ .idle) :
    x.phaseOk ↔ x.busy = true ∧ x.cfgd = true := by
  simp [Engine.phaseOk, h]

theorem Engine.phaseOk.idle_of_not_busy {x : Engine} (h : x.phaseOk) (hb : x.busy = false) : x.phase = .idle :=
  Classical.byContradiction fun hi => by simp [h.1.2 hi] at hb

end Sys2Proof.Machine
end

section
/-! The sequencer's invariant (R43, R46, R51, R54, R162): what it says of an engine that is IDLE and of one that is not,
and that every tick step and every operation keeps it. -/

namespace Sys2Proof.Machine

/-! ## The invariant of one engine -/

/-- The sequencer's invariant of one engine. -/
def Engine.sequencerOk (x : Engine) : Prop :=
  x.phaseOk ∧ x.attemptOk ∧ x.driveOk ∧ x.countersOk ∧ x.captureOk

/-- A command is in progress, with an attempt number that fits it (R46). -/
def Engine.attempting (x : Engine) : Prop :=
  x.busy = true ∧ x.cfgd = true ∧ x.attempt ≠ 0 ∧ (x.mode = .transact → x.attempt = 1)

/-- R221, R225: only a READ's first or second attempt is waited after. -/
def Engine.retryOk (x : Engine) : Prop := x.phase = .retryWait → x.mode = .read ∧ x.attempt ≠ 3

/-- R51: the pin drive of a busy phase. -/
def Phase.drive : Phase → Gpio
  | .startLow => Gpio.driveLow
  | _ => Gpio.inputPullUp

theorem Gpio.eq_iff (g g' : Gpio) : g = g' ↔ g.oe = g'.oe ∧ g.out = g'.out ∧ g.pu = g'.pu := by
  obtain ⟨oe, out, pu⟩ := g
  obtain ⟨oe', out', pu'⟩ := g'
  simp

/-- Outside IDLE the drive conditions say which of the two drives it is. -/
theorem Engine.driveOk_active_iff {x : Engine} (h : x.phase ≠ .idle) : x.driveOk ↔ x.gpio = x.phase.drive := by
  rw [Gpio.eq_iff, Engine.driveOk]
  cases hp : x.phase <;> simp_all [Phase.drive, Gpio.inputPullUp, Gpio.driveLow] <;> tauto

/-- R54 by way of the limit register of the phase. -/
theorem Engine.countersOk_iff {x : Engine} : x.countersOk ↔
    (∀ limit, x.cntLimit = some limit → x.cnt.toNat < max1 limit) ∧
    (x.phase = .capture → x.rx.toNat < max1 x.tRxto) := by
  cases h : x.phase <;> simp [Engine.countersOk, Engine.cntLimit, h]

theorem Engine.countersOk_capture_iff {x : Engine} (h : x.phase = .capture) :
    x.countersOk ↔ x.rx.toNat < max1 x.tRxto := by
  simp [Engine.countersOk, h]

theorem Engine.sequencerOk_idle_iff {x : Engine} (h : x.phase = .idle) :
    x.sequencerOk ↔ x.busy = false ∧ x.gpio.out = false ∧ x.gpio.oe = false := by
  simp only [sequencerOk, phaseOk_idle_iff h, attemptOk, driveOk, countersOk, captureOk, h]
  simp +contextual

theorem Engine.sequencerOk_active_iff {x : Engine} (h : x.phase ≠ .idle) :
    x.sequencerOk ↔ x.attempting ∧ x.gpio = x.phase.drive ∧ x.countersOk ∧ x.captureOk ∧ x.retryOk := by
  simp only [sequencerOk, phaseOk_active_iff h, driveOk_active_iff h, attemptOk, attempting, retryOk]
  tauto

theorem Engine.sequencerOk.attempting {x : Engine} (hx : x.sequencerOk) (h : x.phase ≠ .idle) : x.attempting :=
  ((sequencerOk_active_iff h).1 hx).1

theorem max1_pos (v : Word) : 0 < max1 v := Nat.lt_of_lt_of_le Nat.zero_lt_one (Nat.le_max_right ..)

/-- A phase other than IDLE and CAPTURE may be entered with `st.cnt` at 0. -/
theorem Engine.sequencerOk_of_entered {x : Engine} (hidle : x.phase ≠ .idle) (hcapture : x.phase ≠ .capture)
    (hcnt : x.cnt = 0) (hatt : x.attempting) (hgpio : x.gpio = x.phase.drive) (hretry : x.retryOk) :
    x.sequencerOk := by
  refine (sequencerOk_active_iff hidle).2 ⟨hatt, hgpio, countersOk_iff.2 ⟨fun limit _ => ?_, ?_⟩, ?_, hretry⟩
  · rw [hcnt]
    exact max1_pos limit
  · exact fun h => absurd h hcapture
  · exact fun h => absurd h hcapture

/-! ## The tick step -/

/-- R113: a command may complete with the pin not driven. -/
theorem sequencerOk_finish (code : ErrCode) {x : Engine} (hout : x.gpio.out = false) (hoe : x.gpio.oe = false) :
    (finish code x).sequencerOk :=
  (Engine.sequencerOk_idle_iff rfl).2 ⟨rfl, hout, hoe⟩

/-- R130: an attempt begins, number `n` being one that fits the command. -/
theorem sequencerOk_beginAttempt {n : BitVec 2} {x : Engine} (hbusy : x.busy = true) (hcfgd : x.cfgd = true)
    (hn : n ≠ 0) (hmode : x.mode = .transact → n = 1) : (beginAttempt n x).sequencerOk :=
  Engine.sequencerOk_of_entered nofun nofun rfl ⟨hbusy, hcfgd, hn, hmode⟩ rfl nofun

/-- R221: however an attempt ends, the engine is left consistent. -/
theorem sequencerOk_attemptEnd (code : ErrCode) {x : Engine} (hatt : x.attempting) (hgpio : x.gpio = Gpio.inputPullUp) :
    (attemptEnd code x).sequencerOk := by
  obtain ⟨a, c, h⟩ | ⟨a, -, hmode, hlast, h⟩ := attemptEnd_outcome code x <;> rw [h]
  · exact sequencerOk_finish c (congrArg Gpio.out hgpio) (congrArg Gpio.oe hgpio)
  · exact Engine.sequencerOk_of_entered nofun nofun rfl hatt hgpio fun _ => ⟨hmode, hlast⟩

/-- R165: either way that a capture window closes. -/
theorem sequencerOk_captureExit (kind : ExitKind) (b : CapBuf) {x : Engine} (hatt : x.attempting)
    (hgpio : x.gpio = Gpio.inputPullUp) : (captureExit kind x b).sequencerOk := by
  cases kind with
  | timeout => exact sequencerOk_attemptEnd _ hatt hgpio
  | complete =>
    dsimp only [captureExit]
    cases decodeBuffer x b <;> exact sequencerOk_attemptEnd _ hatt hgpio

theorem one_le_sat16_succ (n : Nat) : 1 ≤ (sat16 (n + 1)).toNat := by
  simp only [sat16, BitVec.toNat_ofNat]
  omega

/-- R161, R162: the sample of a CAPTURE tick keeps high and low phases alternating from a high one. -/
theorem captureTick_alternates (depth : Nat) (line : Bool) (x : Engine) (b : CapBuf)
    (hpend : x.pendValid = true ↔ x.curLevel = false) (hfirst : x.edgeSeen = false → x.curLevel = true) :
    1 ≤ (captureTick depth line x b).curLen.toNat ∧
    ((captureTick depth line x b).pendValid = true ↔ (captureTick depth line x b).curLevel = false) ∧
    ((captureTick depth line x b).edgeSeen = false → (captureTick depth line x b).curLevel = true) := by
  unfold captureTick
  obtain ⟨-, h⟩ | ⟨-, -, h⟩ | ⟨-, -, h⟩ := captureSample_cases depth line x b <;> rw [h]
  · exact ⟨one_le_sat16_succ _, hpend, hfirst⟩
  · simp
  · simp

/-- R161: a CAPTURE tick that does not close the window. -/
theorem sequencerOk_captureTick (depth : Nat) (line : Bool) {x : Engine} (b : CapBuf) (hx : x.sequencerOk)
    (hphase : x.phase = .capture) (hcomplete : captureComplete (captureTick depth line x b) = false)
    (hexpired : captureExpired (captureTick depth line x b) = false) : (captureTick depth line x b).sequencerOk := by
  obtain ⟨hatt, hgpio, -, hwin, hretry⟩ := (Engine.sequencerOk_active_iff (by simp [hphase])).1 hx
  obtain ⟨-, hpend, hfirst, -⟩ := hwin hphase
  obtain ⟨hlen, hpend, hfirst⟩ := captureTick_alternates depth line x b hpend hfirst
  obtain ⟨level, len, seen, pend, high, rx, h⟩ := captureTick_frame depth line x b
  rw [h] at hcomplete hexpired hlen hpend hfirst ⊢
  simp only [captureComplete, Bool.and_eq_false_imp, decide_eq_false_iff_not, Nat.not_le] at hcomplete
  simp only [captureExpired, decide_eq_false_iff_not, Nat.not_le] at hexpired
  exact (Engine.sequencerOk_active_iff (by simp [hphase])).2
    ⟨hatt, hgpio, (Engine.countersOk_capture_iff (by exact hphase)).2 hexpired,
      fun _ => ⟨hlen, hpend, hfirst, hcomplete⟩, hretry⟩

/-- R160: the capture window opens on a high sample. -/
theorem sequencerOk_captureStart {x : Engine} (hatt : x.attempting) (hgpio : x.gpio = Gpio.inputPullUp) :
    (captureStart x).sequencerOk := by
  have hactive : (captureStart x).phase ≠ .idle := nofun
  refine (Engine.sequencerOk_active_iff hactive).2
    ⟨hatt, hgpio, (Engine.countersOk_capture_iff rfl).2 (max1_pos _), fun _ => ?_, nofun⟩
  simp [captureStart, emit]

/-- R54: a tick that the phase's limit does not end. -/
theorem sequencerOk_countTick {x : Engine} {limit : Word} (hx : x.sequencerOk) (hlim : x.cntLimit = some limit)
    (hlt : (countTick x).cnt.toNat < max1 limit) : (countTick x).sequencerOk := by
  have hactive := Engine.not_idle_of_cntLimit hlim
  obtain ⟨hatt, hgpio, hcounters, hwin, hretry⟩ := (Engine.sequencerOk_active_iff hactive).1 hx
  refine (Engine.sequencerOk_active_iff (x := countTick x) hactive).2
    ⟨hatt, hgpio, Engine.countersOk_iff.2 ⟨fun l hl => ?_, (Engine.countersOk_iff.1 hcounters).2⟩, hwin, hretry⟩
  obtain rfl : limit = l := Option.some.inj (hlim.symm.trans hl)
  exact hlt

/-- R142: a tick step keeps the sequencer consistent. -/
theorem sequencerOk_tickUnit (depth : Nat) (line : Bool) {x : Engine} (b : CapBuf) (hx : x.sequencerOk) :
    (tickUnit depth line x b).1.sequencerOk := by
  have hgo {p : Phase} (h : x.phase = p) (hp : p ≠ .idle) : x.attempting ∧ x.gpio = p.drive := by
    subst h
    obtain ⟨hatt, hgpio, -⟩ := (Engine.sequencerOk_active_iff hp).1 hx
    exact ⟨hatt, hgpio⟩
  apply tickUnit_cases depth line x b
  case idle => exact fun _ => hx
  case count => exact fun _ hlim hlt => sequencerOk_countTick hx hlim hlt
  case settled | started =>
    exact fun h => Engine.sequencerOk_of_entered nofun nofun rfl (hgo h nofun).1 rfl nofun
  case released =>
    intro h
    obtain ⟨hatt, hgpio⟩ := hgo h nofun
    exact Engine.sequencerOk_of_entered nofun nofun rfl hatt hgpio nofun
  case answered =>
    intro h
    obtain ⟨hatt, hgpio⟩ := hgo h nofun
    exact sequencerOk_captureStart hatt hgpio
  case silent =>
    intro h
    obtain ⟨hatt, hgpio⟩ := hgo h nofun
    exact sequencerOk_attemptEnd (x := countTick x) .noResponse hatt hgpio
  case capturing => exact fun h => sequencerOk_captureTick depth line b hx h
  case exit =>
    intro h kind b'
    obtain ⟨hatt, hgpio⟩ := hgo h nofun
    obtain ⟨level, len, seen, pend, high, rx, hy⟩ := captureTick_frame depth line x b
    rw [hy]
    exact sequencerOk_captureExit kind b' hatt hgpio
  case retry =>
    intro h
    obtain ⟨⟨hbusy, hcfgd, -⟩, -, -, -, hretry⟩ := (Engine.sequencerOk_active_iff (by simp [h])).1 hx
    obtain ⟨hmode, hlast⟩ := hretry h
    refine sequencerOk_beginAttempt hbusy hcfgd ?_ (by simp [hmode])
    revert hlast
    generalize x.attempt = n
    revert n
    decide

/-! ## Operations -/

/-- R108: while IDLE the configuration may change, and while BUSY it does not. -/
theorem sequencerOk_configWrite {x : Engine} (hx : x.sequencerOk) (r : RwReg) (w : Word) :
    (configWrite r w x).sequencerOk := by
  unfold configWrite
  split
  · exact hx
  · next hb =>
    have hidle : x.phase = .idle := hx.1.idle_of_not_busy (Bool.eq_false_of_not_eq_true hb)
    have hundriven := (Engine.sequencerOk_idle_iff hidle).1 hx
    cases r <;> exact (Engine.sequencerOk_idle_iff (by exact hidle)).2 hundriven

/-- Settles O58: in IDLE the invariant asks for an engine that is not BUSY and drives nothing, and every phase is
entered with what it asks for. -/
theorem stepKeepsSequencerConsistent : Obligations.StepKeepsSequencerConsistent := by
  have hundriven {x : Engine} (hx : x.sequencerOk) (hb : x.busy = false) : x.gpio.out = false ∧ x.gpio.oe = false :=
    ((Engine.sequencerOk_idle_iff (hx.1.idle_of_not_busy hb)).1 hx).2
  apply step_keeps_engines (P := Engine.sequencerOk)
  case hreset => exact (Engine.sequencerOk_idle_iff rfl).2 ⟨rfl, rfl, rfl⟩
  case htick => exact fun depth line x b hx => sequencerOk_tickUnit depth line b hx
  case hflag | hflag2 => exact fun _ hx => hx
  case hst => exact fun _ _ hx => hx
  case hcfgw => exact fun _ r d hx => sequencerOk_configWrite hx r d
  case hstart =>
    intro x m hx hb
    obtain ⟨hout, hoe⟩ := hundriven hx hb
    unfold startEffect
    dsimp only
    split
    · next hcfgd => exact sequencerOk_beginAttempt rfl hcfgd (by decide) fun _ => rfl
    · exact sequencerOk_finish _ hout hoe
  case hdec =>
    intro x b hx hb
    obtain ⟨hout, hoe⟩ := hundriven hx hb
    dsimp only
    split
    · cases decodeBuffer (clearResults (clearDoneErr x)) b <;> exact sequencerOk_finish _ hout hoe
    · exact sequencerOk_finish _ hout hoe
  case hcon1 =>
    intro x p c hx hb
    obtain ⟨hout, hoe⟩ := hundriven hx hb
    exact sequencerOk_finish _ hout hoe
  case hcon2 =>
    intro x hx hb
    obtain ⟨hout, hoe⟩ := hundriven hx hb
    exact sequencerOk_finish _ hout hoe
  case hunc => exact fun _ _ _ => sequencerOk_finish _ rfl rfl
  case hclr =>
    intro x code hx hb
    obtain ⟨hout, hoe⟩ := hundriven hx hb
    exact sequencerOk_finish _ hout hoe

end Sys2Proof.Machine
end

section
/-! The result registers (R25, R27-R30, R197): cleared while a command runs, and written together by a decode that
succeeds. -/

namespace Sys2Proof.Machine

/-! ## The invariant of one engine -/

/-- The result registers' invariant of one engine, with R43. -/
def Engine.resultsInv (x : Engine) : Prop := x.phaseOk ∧ x.resultsOk

/-- R114: there is no reading, and every result register is 0. -/
def Engine.noReading (x : Engine) : Prop :=
  x.valid = false ∧ x.resHum = 0 ∧ x.resTemp = 0 ∧ x.resRaw = 0 ∧ x.resCsum = 0 ∧ x.tneg = false

/-- R25, R27-R30: the result registers agree with VALID. -/
def Engine.readingOk (x : Engine) : Prop :=
  (x.valid = false → x.noReading) ∧
  (x.valid = true → x.resCsum = frameChecksum (x.resRaw.extractLsb' 16 16) (x.resRaw.extractLsb' 0 16))

/-- R100, R106: a command is in progress. -/
def Engine.inCommand (x : Engine) : Prop :=
  x.busy = true ∧ x.cfgd = true ∧ x.done = false ∧ x.err = .none ∧ x.noReading

theorem Engine.noReading.readingOk {x : Engine} (h : x.noReading) : x.readingOk :=
  ⟨fun _ => h, fun hv => by simp [h.1] at hv⟩

theorem Engine.resultsInv_idle_iff {x : Engine} (h : x.phase = .idle) :
    x.resultsInv ↔ x.busy = false ∧ x.readingOk := by
  simp only [resultsInv, phaseOk_idle_iff h, resultsOk, readingOk, noReading]
  refine and_congr_right fun hb => ?_
  simp +contextual [hb]

theorem Engine.resultsInv_active_iff {x : Engine} (h : x.phase ≠ .idle) : x.resultsInv ↔ x.inCommand := by
  simp only [resultsInv, phaseOk_active_iff h, resultsOk, inCommand, noReading]
  constructor
  · rintro ⟨⟨hb, hc⟩, hzero, -, hrun⟩
    obtain ⟨hv, hd, he⟩ := hrun hb
    exact ⟨hb, hc, hd, he, hv, hzero hv⟩
  · rintro ⟨hb, hc, hd, he, hv, hzero⟩
    exact ⟨⟨hb, hc⟩, fun _ => hzero, fun hv' => by simp [hv] at hv', fun _ => ⟨hv, hd, he⟩⟩

/-! ## Publication and completion -/

theorem noReading_clearResults (x : Engine) : (clearResults x).noReading := ⟨rfl, rfl, rfl, rfl, rfl, rfl⟩

/-- R193, R196: a decoded frame is published with the checksum of its fields. -/
theorem readingOk_writeResults {f : Frame} (h : f.c = frameChecksum f.h f.t) (x : Engine) :
    (writeResults f x).readingOk := by
  refine ⟨nofun, fun _ => ?_⟩
  change f.c = frameChecksum ((f.h ++ f.t).extractLsb' 16 16) ((f.h ++ f.t).extractLsb' 0 16)
  rw [BitVec.extractLsb'_append_eq_left, BitVec.extractLsb'_append_eq_right, h]

/-- R113: a command may complete with any reading that agrees with VALID. -/
theorem resultsInv_finish (code : ErrCode) {x : Engine} (h : x.readingOk) : (finish code x).resultsInv :=
  (Engine.resultsInv_idle_iff rfl).2 ⟨rfl, h⟩

/-- R105: DECODE publishes a reading or leaves the cleared registers. -/
theorem readingOk_publish_decodeBuffer (y : Engine) (b : CapBuf) {x : Engine} (hx : x.noReading) :
    (publish (decodeBuffer y b) x).readingOk := by
  cases h : decodeBuffer y b with
  | ok f => exact readingOk_writeResults (decodeFrame_ok_checksum h).1 x
  | insufficientData | checksumError => exact hx.readingOk

/-! ## The tick step -/

/-- R130: an attempt begins without a reading. -/
theorem resultsInv_beginAttempt (n : BitVec 2) {x : Engine} (hbusy : x.busy = true) (hcfgd : x.cfgd = true)
    (hdone : x.done = false) (herr : x.err = .none) : (beginAttempt n x).resultsInv :=
  (Engine.resultsInv_active_iff (x := beginAttempt n x) nofun).2
    ⟨hbusy, hcfgd, hdone, herr, noReading_clearResults x⟩

/-- R221: an attempt that ends without a reading. -/
theorem resultsInv_attemptEnd (code : ErrCode) {x : Engine} (hx : x.inCommand) : (attemptEnd code x).resultsInv := by
  obtain ⟨a, c, h⟩ | ⟨a, -, -, -, h⟩ := attemptEnd_outcome code x <;> rw [h]
  · obtain ⟨-, -, -, -, hnone⟩ := hx
    exact resultsInv_finish c hnone.readingOk
  · exact (Engine.resultsInv_active_iff (by simp)).2 hx

/-- R221: an attempt that succeeds completes the command. -/
theorem attemptEnd_none (x : Engine) : attemptEnd .none x = finish .none (emit (.attEnd x.attempt .none) x) := by
  simp [attemptEnd]

/-- R165: either way that a capture window closes. -/
theorem resultsInv_captureExit (kind : ExitKind) (b : CapBuf) {x : Engine} (hx : x.inCommand) :
    (captureExit kind x b).resultsInv := by
  cases kind with
  | timeout => exact resultsInv_attemptEnd _ hx
  | complete =>
    dsimp only [captureExit]
    cases h : decodeBuffer x b with
    | ok f =>
      rw [DecodeResult.code, attemptEnd_none]
      exact resultsInv_finish _ (readingOk_writeResults (decodeFrame_ok_checksum h).1 x)
    | insufficientData | checksumError => exact resultsInv_attemptEnd _ hx

/-- R142: a tick step keeps the results consistent. -/
theorem resultsInv_tickUnit (depth : Nat) (line : Bool) {x : Engine} (b : CapBuf) (hx : x.resultsInv) :
    (tickUnit depth line x b).1.resultsInv := by
  have hgo {p : Phase} (h : x.phase = p) (hp : p ≠ .idle) : x.inCommand :=
    (Engine.resultsInv_active_iff (h ▸ hp)).1 hx
  have hstay {y : Engine} (hy : y.inCommand) (hp : y.phase ≠ .idle) : y.resultsInv :=
    (Engine.resultsInv_active_iff hp).2 hy
  apply tickUnit_cases depth line x b
  case idle => exact fun _ => hx
  case count =>
    intro limit hlim _
    have hactive := Engine.not_idle_of_cntLimit hlim
    exact hstay (y := countTick x) (hgo rfl hactive) hactive
  case settled | started | released | answered => exact fun h => hstay (hgo h nofun) nofun
  case silent => exact fun h => resultsInv_attemptEnd (x := countTick x) .noResponse (hgo h nofun)
  case capturing =>
    intro h _ _
    obtain ⟨level, len, seen, pend, high, rx, hy⟩ := captureTick_frame depth line x b
    rw [hy]
    exact hstay (hgo h nofun) (by simp [h])
  case exit =>
    intro h kind b'
    obtain ⟨level, len, seen, pend, high, rx, hy⟩ := captureTick_frame depth line x b
    rw [hy]
    exact resultsInv_captureExit kind b' (hgo h nofun)
  case retry =>
    intro h
    obtain ⟨hbusy, hcfgd, hdone, herr, -⟩ := hgo h nofun
    exact resultsInv_beginAttempt _ hbusy hcfgd hdone herr

/-! ## Operations -/

/-- R108: a configuration write touches no result. -/
theorem resultsInv_configWrite {x : Engine} (hx : x.resultsInv) (r : RwReg) (w : Word) :
    (configWrite r w x).resultsInv := by
  unfold configWrite
  split
  · exact hx
  · cases r <;> exact hx

/-- R109: a STATUS write can only clear DONE. -/
theorem resultsInv_statusClear {x : Engine} (hx : x.resultsInv) (w : Word) : (statusClear w x).resultsInv := by
  obtain ⟨hphase, hzero, hcsum, hrun⟩ := hx
  refine ⟨hphase, hzero, hcsum, fun hb => ?_⟩
  obtain ⟨hv, hd, he⟩ := hrun hb
  exact ⟨hv, by simp [statusClear, hd], he⟩

/-- Settles O59: every command but CAPCLR clears the results, and only a successful decode writes them, with its own
checksum. -/
theorem stepKeepsResultsConsistent : Obligations.StepKeepsResultsConsistent := by
  apply step_keeps_engines (P := Engine.resultsInv)
  case hreset => exact (Engine.resultsInv_idle_iff rfl).2 ⟨rfl, (noReading_clearResults Engine.reset).readingOk⟩
  case htick => exact fun depth line x b hx => resultsInv_tickUnit depth line b hx
  case hflag | hflag2 => exact fun _ hx => hx
  case hst => exact fun _ d hx => resultsInv_statusClear hx d
  case hcfgw => exact fun _ r d hx => resultsInv_configWrite hx r d
  case hstart =>
    intro x m _ _
    unfold startEffect
    dsimp only
    split
    · next hcfgd => exact resultsInv_beginAttempt 1 rfl hcfgd rfl rfl
    · exact resultsInv_finish _ (noReading_clearResults _).readingOk
  case hdec =>
    intro x b _ _
    dsimp only
    split
    · exact resultsInv_finish _ (readingOk_publish_decodeBuffer _ b (noReading_clearResults _))
    · exact resultsInv_finish _ (noReading_clearResults _).readingOk
  case hcon1 => exact fun x _ _ _ _ => resultsInv_finish _ (noReading_clearResults x).readingOk
  case hcon2 | hunc => exact fun x _ _ => resultsInv_finish _ (noReading_clearResults x).readingOk
  case hclr =>
    intro x code hx hb
    obtain ⟨-, hreading⟩ := (Engine.resultsInv_idle_iff (hx.1.idle_of_not_busy hb)).1 hx
    exact resultsInv_finish code (x := clearDoneErr x) hreading

end Sys2Proof.Machine
end

section
/-! The trace (R53): every capture window but the open one is closed, every attempt but the one in progress is ended,
and nothing but a reset takes an event out (R10, R270). -/

namespace Sys2Proof.Machine

/-! ## Counting windows and attempts -/

/-- `w` capture windows and `a` attempts of the trace are open. -/
def Balanced (w a : Nat) (tr : List Event) : Prop :=
  windowsOpened tr = windowsClosed tr + w ∧ attemptsBegun tr = attemptsEnded tr + a

section Balanced

variable (w a : Nat) (tr : List Event)

theorem balanced_gpio (g : Gpio) : Balanced w a (tr ++ [.gpio g]) ↔ Balanced w a tr := by
  simp [Balanced, windowsOpened, windowsClosed, attemptsBegun, attemptsEnded]

theorem balanced_capRelease (c : BitVec 3) : Balanced w a (tr ++ [.capRelease c]) ↔ Balanced w a tr := by
  simp [Balanced, windowsOpened, windowsClosed, attemptsBegun, attemptsEnded]

theorem balanced_cmdDone (code : ErrCode) : Balanced w a (tr ++ [.cmdDone code]) ↔ Balanced w a tr := by
  simp [Balanced, windowsOpened, windowsClosed, attemptsBegun, attemptsEnded]

theorem balanced_capStart (c : BitVec 3) : Balanced (w + 1) a (tr ++ [.capStart c]) ↔ Balanced w a tr := by
  simp [Balanced, windowsOpened, windowsClosed, attemptsBegun, attemptsEnded, ← Nat.add_assoc]

theorem balanced_capStop (c : BitVec 3) : Balanced w a (tr ++ [.capStop c]) ↔ Balanced (w + 1) a tr := by
  simp [Balanced, windowsOpened, windowsClosed, attemptsBegun, attemptsEnded, Nat.add_assoc, Nat.add_comm 1]

theorem balanced_attBegin (n : BitVec 2) : Balanced w (a + 1) (tr ++ [.attBegin n]) ↔ Balanced w a tr := by
  simp [Balanced, windowsOpened, windowsClosed, attemptsBegun, attemptsEnded, ← Nat.add_assoc]

theorem balanced_attEnd (n : BitVec 2) (code : ErrCode) :
    Balanced w a (tr ++ [.attEnd n code]) ↔ Balanced w (a + 1) tr := by
  simp [Balanced, windowsOpened, windowsClosed, attemptsBegun, attemptsEnded, Nat.add_assoc, Nat.add_comm 1]

end Balanced

/-! ## The invariant of one engine -/

/-- The trace's invariant of one engine, with R43. -/
def Engine.traceInv (x : Engine) : Prop := x.phaseOk ∧ x.windowsOk

theorem Engine.traceInv_idle_iff {x : Engine} (h : x.phase = .idle) :
    x.traceInv ↔ x.busy = false ∧ Balanced 0 0 x.trace := by
  simp [traceInv, phaseOk_idle_iff h, windowsOk, Balanced, h]

theorem Engine.traceInv_retryWait_iff {x : Engine} (h : x.phase = .retryWait) :
    x.traceInv ↔ x.busy = true ∧ x.cfgd = true ∧ Balanced 0 0 x.trace := by
  simp [traceInv, phaseOk, windowsOk, Balanced, h, and_assoc]

theorem Engine.traceInv_capture_iff {x : Engine} (h : x.phase = .capture) :
    x.traceInv ↔ x.busy = true ∧ x.cfgd = true ∧ Balanced 1 1 x.trace := by
  simp [traceInv, phaseOk, windowsOk, Balanced, h, and_assoc]

/-- The phases 1 to 4, in which an attempt has not opened its window yet. -/
theorem Engine.traceInv_start_iff {x : Engine} (h : x.phase ≠ .idle ∧ x.phase ≠ .retryWait ∧ x.phase ≠ .capture) :
    x.traceInv ↔ x.busy = true ∧ x.cfgd = true ∧ Balanced 0 1 x.trace := by
  simp [traceInv, phaseOk, windowsOk, Balanced, h, and_assoc]

/-- R113: a command may complete with no window and no attempt open. -/
theorem traceInv_finish (code : ErrCode) {x : Engine} (h : Balanced 0 0 x.trace) : (finish code x).traceInv :=
  (Engine.traceInv_idle_iff rfl).2 ⟨rfl, (balanced_cmdDone ..).2 h⟩

/-- R130: with none in progress, an attempt may begin. -/
theorem traceInv_beginAttempt (n : BitVec 2) {x : Engine} (hbusy : x.busy = true) (hcfgd : x.cfgd = true)
    (h : Balanced 0 0 x.trace) : (beginAttempt n x).traceInv :=
  (Engine.traceInv_start_iff (x := beginAttempt n x) ⟨nofun, nofun, nofun⟩).2
    ⟨hbusy, hcfgd, (balanced_gpio ..).2 ((balanced_attBegin ..).2 h)⟩

/-- R221: the attempt in progress ends, its window being closed. -/
theorem traceInv_attemptEnd (code : ErrCode) {x : Engine} (hbusy : x.busy = true) (hcfgd : x.cfgd = true)
    (h : Balanced 0 1 x.trace) : (attemptEnd code x).traceInv := by
  have hended : Balanced 0 0 (x.trace ++ [.attEnd x.attempt code]) := (balanced_attEnd ..).2 h
  obtain ⟨a, c, hout⟩ | ⟨a, -, -, -, hout⟩ := attemptEnd_outcome code x <;> rw [hout]
  · exact traceInv_finish c hended
  · exact (Engine.traceInv_retryWait_iff rfl).2 ⟨hbusy, hcfgd, hended⟩

/-- R165: every exit of a capture closes its window and ends its attempt. -/
theorem traceInv_captureExit (kind : ExitKind) (b : CapBuf) {x : Engine} (hbusy : x.busy = true)
    (hcfgd : x.cfgd = true) (h : Balanced 1 1 x.trace) : (captureExit kind x b).traceInv := by
  have hclosed : Balanced 0 1 (x.trace ++ [.capRelease x.chan] ++ [.capStop x.chan]) :=
    (balanced_capStop ..).2 ((balanced_capRelease ..).2 h)
  cases kind with
  | timeout => exact traceInv_attemptEnd _ hbusy hcfgd hclosed
  | complete =>
    dsimp only [captureExit]
    cases decodeBuffer x b <;> exact traceInv_attemptEnd _ hbusy hcfgd hclosed

/-- R142: a tick step keeps the trace balanced. -/
theorem traceInv_tickUnit (depth : Nat) (line : Bool) {x : Engine} (b : CapBuf) (hx : x.traceInv) :
    (tickUnit depth line x b).1.traceInv := by
  have hstart {p : Phase} (h : x.phase = p) (hp : p ≠ .idle ∧ p ≠ .retryWait ∧ p ≠ .capture) :
      x.busy = true ∧ x.cfgd = true ∧ Balanced 0 1 x.trace := (Engine.traceInv_start_iff (h ▸ hp)).1 hx
  have hgo {y : Engine} (hp : y.phase ≠ .idle ∧ y.phase ≠ .retryWait ∧ y.phase ≠ .capture)
      (hy : y.busy = true ∧ y.cfgd = true ∧ Balanced 0 1 y.trace) : y.traceInv := (Engine.traceInv_start_iff hp).2 hy
  apply tickUnit_cases depth line x b
  case idle => exact fun _ => hx
  case count => exact fun _ _ _ => hx
  case settled | started =>
    intro h
    obtain ⟨hbusy, hcfgd, hopen⟩ := hstart h ⟨nofun, nofun, nofun⟩
    exact hgo ⟨nofun, nofun, nofun⟩ ⟨hbusy, hcfgd, (balanced_gpio ..).2 hopen⟩
  case released => exact fun h => hgo ⟨nofun, nofun, nofun⟩ (hstart h ⟨nofun, nofun, nofun⟩)
  case answered =>
    intro h
    obtain ⟨hbusy, hcfgd, hopen⟩ := hstart h ⟨nofun, nofun, nofun⟩
    exact (Engine.traceInv_capture_iff rfl).2 ⟨hbusy, hcfgd, (balanced_capStart ..).2 hopen⟩
  case silent =>
    intro h
    obtain ⟨hbusy, hcfgd, hopen⟩ := hstart h ⟨nofun, nofun, nofun⟩
    exact traceInv_attemptEnd (x := countTick x) .noResponse hbusy hcfgd hopen
  case capturing =>
    intro _ _ _
    obtain ⟨level, len, seen, pend, high, rx, hy⟩ := captureTick_frame depth line x b
    rw [hy]
    exact hx
  case exit =>
    intro h kind b'
    obtain ⟨hbusy, hcfgd, hopen⟩ := (Engine.traceInv_capture_iff h).1 hx
    obtain ⟨level, len, seen, pend, high, rx, hy⟩ := captureTick_frame depth line x b
    rw [hy]
    exact traceInv_captureExit kind b' hbusy hcfgd hopen
  case retry =>
    intro h
    obtain ⟨hbusy, hcfgd, hclosed⟩ := (Engine.traceInv_retryWait_iff h).1 hx
    exact traceInv_beginAttempt _ hbusy hcfgd hclosed

/-! ## Operations -/

/-- R108: a configuration write emits nothing. -/
theorem traceInv_configWrite {x : Engine} (hx : x.traceInv) (r : RwReg) (w : Word) :
    (configWrite r w x).traceInv := by
  unfold configWrite
  split
  · exact hx
  · cases r <;> exact hx

/-- R10: publishing a result emits nothing. -/
theorem publish_trace_eq (r : DecodeResult) (x : Engine) : (publish r x).trace = x.trace := by
  cases r <;> rfl

/-- Every step keeps the trace balanced: only CONFIG's warm-up and the ticks open and close windows, and a command ends
with none open. -/
theorem step_keeps_traceInv :
    ∀ s t : State, (∀ e, (s.eng e).traceInv) → step s = .next t → ∀ e, (t.eng e).traceInv := by
  have hclosed (x : Engine) (hx : x.traceInv) (hb : x.busy = false) : Balanced 0 0 x.trace :=
    ((Engine.traceInv_idle_iff (hx.1.idle_of_not_busy hb)).1 hx).2
  apply step_keeps_engines (P := Engine.traceInv)
  case hreset => exact (Engine.traceInv_idle_iff rfl).2 ⟨rfl, rfl, rfl⟩
  case htick => exact fun depth line x b hx => traceInv_tickUnit depth line b hx
  case hflag | hflag2 => exact fun _ hx => hx
  case hst => exact fun _ _ hx => hx
  case hcfgw => exact fun _ r d hx => traceInv_configWrite hx r d
  case hstart =>
    intro x m hx hb
    unfold startEffect
    dsimp only
    split
    · next hcfgd => exact traceInv_beginAttempt 1 rfl hcfgd (hclosed x hx hb)
    · exact traceInv_finish _ (hclosed x hx hb)
  case hdec =>
    intro x b hx hb
    dsimp only
    split
    · refine traceInv_finish _ ?_
      rw [publish_trace_eq]
      exact hclosed x hx hb
    · exact traceInv_finish _ (hclosed x hx hb)
  case hcon1 =>
    exact fun x p c hx hb => traceInv_finish _ ((balanced_capStop ..).2 ((balanced_capStart ..).2 (hclosed x hx hb)))
  case hcon2 => exact fun x hx hb => traceInv_finish _ (hclosed x hx hb)
  case hunc => exact fun x hx hb => traceInv_finish _ ((balanced_gpio ..).2 (hclosed x hx hb))
  case hclr => exact fun x code hx hb => traceInv_finish code (hclosed x hx hb)

/-! ## Traces only grow (R10) -/

/-- No event is taken out of a trace. -/
def TracesGrow (s t : State) : Prop := ∀ e, (s.eng e).trace <+: (t.eng e).trace

theorem TracesGrow.refl (s : State) : TracesGrow s s := fun _ => List.prefix_rfl

theorem TracesGrow.trans {s t u : State} (h : TracesGrow s t) (h' : TracesGrow t u) : TracesGrow s u :=
  fun e => (h e).trans (h' e)

theorem tracesGrow_modEng (s : State) (e : EngineId) {g : Engine → Engine} (h : ∀ x, x.trace <+: (g x).trace) :
    TracesGrow s (s.modEng e g) := fun f => by
  by_cases hf : f = e
  · subst hf
    rw [State.eng_modEng_same]
    exact h _
  · rw [State.eng_modEng_ne _ _ hf]

/-- R102, R103: dropping a claim emits nothing. -/
theorem tracesGrow_dropClaim (e : EngineId) (s : State) : TracesGrow s (dropClaim e s) := fun f => by
  obtain ⟨hself, hother, -⟩ := dropClaim_spec e s
  by_cases hf : f = e
  · subst hf
    rw [hself]
  · rw [hother f hf]

/-- R102, R103: what CONFIG and UNCONFIG do first. -/
theorem tracesGrow_clearAndDrop (e : EngineId) (s : State) :
    TracesGrow s (dropClaim e (s.modEng e clearResults)) :=
  (tracesGrow_modEng s e (g := clearResults) fun _ => List.prefix_rfl).trans (tracesGrow_dropClaim e _)

/-- R102: the claim itself emits nothing. -/
theorem tracesGrow_takeClaim (e : EngineId) (p : BitVec 6) (c : BitVec 3) (s : State) :
    TracesGrow s (takeClaim e p c s) := fun f => by
  obtain ⟨hself, hother, -⟩ := takeClaim_spec e p c s
  by_cases hf : f = e
  · subst hf
    rw [hself]
  · rw [hother f hf]

theorem finish_trace (code : ErrCode) (x : Engine) : x.trace <+: (finish code x).trace := List.prefix_append ..

/-- R106, R107. -/
theorem startEffect_trace (m : Mode) (x : Engine) : x.trace <+: (startEffect m x).trace := by
  unfold startEffect
  dsimp only
  split
  · simp [beginAttempt, driveGpio, emit, clearResults]
  · exact finish_trace _ (clearResults _)

/-- R102. -/
theorem tracesGrow_configEffect (e : EngineId) (s : State) : TracesGrow s (configEffect e s) := by
  refine (tracesGrow_clearAndDrop e s).trans ?_
  unfold configEffect
  dsimp only
  split
  · exact (tracesGrow_takeClaim e _ _ _).trans (tracesGrow_modEng _ e fun x => by simp [finish, emit])
  · exact tracesGrow_modEng _ e (finish_trace _)

/-- R103. -/
theorem tracesGrow_unconfigEffect (e : EngineId) (s : State) : TracesGrow s (unconfigEffect e s) := by
  refine (tracesGrow_clearAndDrop e s).trans ?_
  unfold unconfigEffect
  exact tracesGrow_modEng _ e fun x => by simp [finish, driveGpio, emit]

/-- R104. -/
theorem tracesGrow_capclrEffect (e : EngineId) (s : State) : TracesGrow s (capclrEffect e s) := by
  unfold capclrEffect
  dsimp only
  split
  · exact tracesGrow_modEng (s.setBuf _ _) e (finish_trace _)
  · exact tracesGrow_modEng s e (finish_trace _)

/-- R105. -/
theorem tracesGrow_decodeEffect (e : EngineId) (s : State) : TracesGrow s (decodeEffect e s) := by
  refine (tracesGrow_modEng s e (g := clearResults) fun _ => List.prefix_rfl).trans ?_
  unfold decodeEffect
  dsimp only
  split
  · refine tracesGrow_modEng _ e fun x => ?_
    rw [← publish_trace_eq _ x]
    exact finish_trace ..
  · exact tracesGrow_modEng _ e (finish_trace _)

/-- R110. -/
theorem tracesGrow_appendSample (e : EngineId) (w : Word) (s : State) : TracesGrow s (appendSample e w s) := by
  unfold appendSample
  dsimp only
  split
  · exact tracesGrow_modEng s e (g := flagWerr) fun _ => List.prefix_rfl
  · exact TracesGrow.refl s

/-- R108. -/
theorem configWrite_trace (r : RwReg) (w : Word) (x : Engine) : x.trace <+: (configWrite r w x).trace := by
  unfold configWrite
  split
  · exact List.prefix_rfl
  · cases r <;> exact List.prefix_rfl

/-- R100. -/
theorem tracesGrow_acceptCommand {e : EngineId} {effect : State → State} (heffect : ∀ u, TracesGrow u (effect u))
    (s : State) : TracesGrow s (acceptCommand e effect s) := by
  unfold acceptCommand
  split
  · exact tracesGrow_modEng s e (g := flagCmderr) fun _ => List.prefix_rfl
  · exact (tracesGrow_modEng s e (g := clearDoneErr) fun _ => List.prefix_rfl).trans (heffect _)

/-- No operation takes an event out of a trace. -/
theorem tracesGrow_exec {i : Instr} {s t : State} (h : exec i s = .next t) : TracesGrow s t := by
  obtain rfl | ⟨v, rfl⟩ | ⟨e, -, rfl | ⟨r, d, rfl⟩ | ⟨d, rfl⟩ | ⟨d, rfl⟩ | ⟨m, rfl⟩ | rfl | rfl | rfl | rfl⟩ :=
    exec_next_cases h
  · exact .refl _
  · exact TracesGrow.refl s
  · exact tracesGrow_modEng s e (g := flagCmderr) fun _ => List.prefix_rfl
  · exact tracesGrow_modEng s e (configWrite_trace r d)
  · exact tracesGrow_modEng s e (g := statusClear d) fun _ => List.prefix_rfl
  · exact tracesGrow_appendSample e d s
  · exact tracesGrow_acceptCommand (fun u => tracesGrow_modEng u e (startEffect_trace m)) s
  · exact tracesGrow_acceptCommand (tracesGrow_decodeEffect e) s
  · exact tracesGrow_acceptCommand (tracesGrow_configEffect e) s
  · exact tracesGrow_acceptCommand (tracesGrow_unconfigEffect e) s
  · exact tracesGrow_acceptCommand (tracesGrow_capclrEffect e) s

/-- No tick takes an event out of a trace. -/
theorem tracesGrow_tickPulse (pins : BitVec 64) (s : State) : TracesGrow s (tickPulse pins s) := by
  refine tickPulse_induct (P := TracesGrow s) pins (fun _ h => h) (fun u e _ h f => (h f).trans ?_) (.refl s)
  by_cases hf : f = e
  · subst hf
    rw [tickEngine_eng_same]
    exact tickUnit_trace ..
  · rw [tickEngine_eng_ne _ _ hf]

/-- R10, R270: no step but the assertion of `rst` takes an event out of a trace. -/
theorem tracesGrow_step {s t : State} (h : step s = .next t) (hrst : ∀ rest, s.inputs ≠ .rst true :: rest) :
    TracesGrow s t := by
  obtain ⟨u, ⟨rest, rfl⟩, hu⟩ := step_next_cases h
  have hgrow : TracesGrow { s with inputs := rest } t := by
    obtain ⟨pins, rfl⟩ | ⟨level, hin, rfl⟩ | ⟨i, hi⟩ | rfl | rfl := hu
    · exact tracesGrow_tickPulse pins _
    · cases level with
      | true => exact absurd hin (hrst _)
      | false => exact TracesGrow.refl s
    · exact tracesGrow_exec hi
    · exact .refl _
    · exact TracesGrow.refl s
  exact hgrow

/-- R270: the assertion of `rst` puts every engine into its reset state. -/
theorem step_of_rst {s t : State} {rest : List Input} (hin : s.inputs = .rst true :: rest) (h : step s = .next t)
    (e : EngineId) : t.eng e = Engine.reset := by
  simp only [step, nextInput, hin] at h
  injection h with h
  subst h
  exact State.eng_resetWith s.params e

/-- Settles O60: the balance is an invariant of each engine, and every step but the reset appends to the traces only. -/
theorem stepKeepsWindowsBalanced : Obligations.StepKeepsWindowsBalanced := by
  refine fun s t hs h => ⟨step_keeps_traceInv s t hs h, tracesGrow_step h, fun ⟨rest, hin⟩ e => ?_⟩
  rw [step_of_rst hin h]
  rfl

end Sys2Proof.Machine
end

section
/-! The STATUS word (R25), bit by bit and field by field. -/

namespace Sys2Proof.Machine

/-- R25: the single bits of STATUS. -/
theorem statusWord_bits (x : Engine) (b : CapBuf) :
    (statusWord x b).getLsbD 0 = x.busy ∧ (statusWord x b).getLsbD 1 = x.done ∧ (statusWord x b).getLsbD 2 = x.valid ∧
    (statusWord x b).getLsbD 3 = x.cfgd ∧ (statusWord x b).getLsbD 7 = false ∧ (statusWord x b).getLsbD 8 = x.tneg ∧
    (statusWord x b).getLsbD 9 = (x.cfgd && b.ovf) ∧ (statusWord x b).getLsbD 12 = x.cmderr ∧
    (statusWord x b).getLsbD 13 = x.werr := by
  simp only [statusWord, BitVec.getLsbD_append, flagBit, BitVec.getLsbD_ofBool]
  simp [ovfView]

/-- R25: the fields and the reserved bits of STATUS. -/
theorem statusWord_fields (x : Engine) (b : CapBuf) :
    (statusWord x b).extractLsb' 4 3 = x.err.code ∧ (statusWord x b).extractLsb' 10 2 = 0 ∧
    (statusWord x b).extractLsb' 14 2 = 0 ∧ (statusWord x b).extractLsb' 16 2 = x.attempt ∧
    (statusWord x b).extractLsb' 18 2 = 0 ∧ (statusWord x b).extractLsb' 20 3 = x.phase.code ∧
    (statusWord x b).extractLsb' 23 9 = 0 := by
  have hlt (start i w : Nat) : start + i < w ↔ i < w - start := by omega
  refine ⟨?_, ?_, ?_, ?_, ?_, ?_, ?_⟩ <;>
    refine BitVec.eq_of_getLsbD_eq fun i hi => ?_ <;>
    simp only [statusWord, BitVec.getLsbD_extractLsb', BitVec.getLsbD_append, hlt] <;>
    simp [hi, Nat.lt_of_lt_of_le hi]

/-- R25, R43: STATUS.PHASE. -/
theorem statusWord_phase (x : Engine) (b : CapBuf) : (statusWord x b).extractLsb' 20 3 = x.phase.code := by
  obtain ⟨-, -, -, -, -, h, -⟩ := statusWord_fields x b
  exact h

/-- R25, R240: STATUS.ERR. -/
theorem statusWord_err (x : Engine) (b : CapBuf) : (statusWord x b).extractLsb' 4 3 = x.err.code := by
  obtain ⟨h, -⟩ := statusWord_fields x b
  exact h

/-- Settles O30: the word's parts stand at the positions of R25, and the seven codes of each table are looked up. -/
theorem statusFieldPositions : Obligations.StatusFieldPositions := by
  intro x b w
  obtain ⟨hbusy, hdone, hvalid, hcfgd, h7, htneg, hovf, hcmderr, hwerr⟩ := statusWord_bits x b
  obtain ⟨herr, h10, h14, hattempt, h18, hphase, h23⟩ := statusWord_fields x b
  refine ⟨hbusy, hdone, hvalid, hcfgd, herr, h7, htneg, hovf, h10, hcmderr, hwerr, h14, hattempt, h18, hphase, h23,
    ?_, fun pc hpc => ?_, fun ec hec => ?_⟩
  · rw [hdone]
    rfl
  · rw [statusWord_phase]
    dsimp only
    revert pc
    decide
  · rw [statusWord_err]
    dsimp only
    revert ec
    decide

end Sys2Proof.Machine
end

section
/-! From an address to the operation (R60, R61, R63, R84), and from an arrival to the step that takes it (R66, R243):
what each gives, said once, and the only ways in which a step stops. -/

namespace Sys2Proof

/-! ## The block's address range and the two formats -/

/-- R60: an address in the block, as two bounds. -/
theorem addressInBlock_iff {p : Params} {addr : Nat} :
    addressInBlock p addr = true ↔ p.base ≤ addr ∧ addr < p.base + p.nInst * 0x200 := by
  simp [addressInBlock]

/-- R61: an illegal access, as its two forms. -/
theorem accessIllegal_iff {a : Access} : accessIllegal a = true ↔ a.width ≠ .w32 ∨ a.addr % 4 ≠ 0 := by
  simp [accessIllegal]

/-- R63: the codes outside the block, and no others, have no operation. -/
theorem decode_eq_error_iff {p : Params} {c : Code} {r : Reject} :
    decode p c = .error r ↔ Machine.codeInBlock p c = false := by
  cases r
  cases c with
  | cmd e w => cases h : engineExists p e <;> simp [decode, Machine.codeInBlock, h]
  | bus a =>
    cases h : addressInBlock p a.addr
    · simp [decode, decodeBus, Machine.codeInBlock, h]
    · cases hill : accessIllegal a <;> simp [decode, decodeBus, Machine.codeInBlock, h, hill]

/-- R60: a legal access in an engine's bank is decoded by its engine, its offset there and its direction. -/
theorem decode_bus_of_bank {p : Params} {a : Access} {e : EngineId} {off : Nat} (he : engineExists p e = true)
    (hoff : off < 0x200) (haddr : a.addr = p.base + e.val * 0x200 + off) (hlegal : accessIllegal a = false) :
    decode p (.bus a) = .ok (decodeAt p e off a.dir a.data) := by
  obtain ⟨hsel, hmod, hin⟩ := selectEngine_bank he hoff haddr
  simp [decode, decodeBus, hin, hlegal, hsel, hmod]

/-- R84: a write at an existing register's offset is that register's write. -/
theorem decodeAt_write_offset {p : Params} (e : EngineId) (d : Word) {r : Reg}
    (hk : ∀ k, r = .capData k → k.val < p.capDepth) : decodeAt p e r.offset .write d = writeOf e d r := by
  simp only [decodeAt, Reg.ofOffset_offset p r hk]

/-- R63: a write at a reserved offset is a reserved write. -/
theorem decodeAt_write_reserved {p : Params} (e : EngineId) (d : Word) {off : BitVec 9}
    (h : offsetReserved p off = true) : decodeAt p e off.toNat .write d = .reservedWrite e off d := by
  simp [decodeAt, Reg.ofOffset_reserved h]

/-- Settles O5: the bounds of the block are its address range, and a bank's address selects its engine and offset,
where the offset table is read. -/
theorem addressSelectsInstanceAndOffset : Obligations.AddressSelectsInstanceAndOffset := by
  intro p a hp
  refine ⟨fun hout => ?_, fun e off he hoff halign haddr hwidth => ?_⟩
  · rw [decode_eq_error_iff, Machine.codeInBlock, Bool.eq_false_iff, ne_eq, addressInBlock_iff]
    omega
  · obtain ⟨hbase, -⟩ := Params.wf_ranges hp
    have hlegal : accessIllegal a = false := by
      rw [Bool.eq_false_iff, ne_eq, accessIllegal_iff, hwidth]
      simp only [ne_eq, not_true_eq_false, false_or, not_not]
      omega
    rw [decode_bus_of_bank he hoff haddr hlegal]
    refine ⟨fun hdir => ?_, fun hdir r hr hk => ?_, fun hdir hres => ?_⟩ <;> rw [hdir]
    · rfl
    · rw [← hr, decodeAt_write_offset e _ hk]
    · have htoNat : (BitVec.ofNat 9 off).toNat = off := (BitVec.toNat_ofNat off 9).trans (Nat.mod_eq_of_lt hoff)
      rw [← decodeAt_write_reserved e a.data hres, htoNat]

/-! ## Which codes are the illegal access -/

theorem decodeCommand_ne_subwordOrMisaligned (e : EngineId) (w : Word) (a : Access) :
    decodeCommand e w ≠ .subwordOrMisaligned a := by
  unfold decodeCommand
  dsimp only
  split
  · simp
  · split <;> simp

theorem decodeAt_ne_subwordOrMisaligned (p : Params) (e : EngineId) (off : Nat) (dir : Dir) (d : Word) (a : Access) :
    decodeAt p e off dir d ≠ .subwordOrMisaligned a := by
  unfold decodeAt
  split
  · simp
  · split
    · next r _ => cases r <;> simp [writeOf]
    · simp

/-- R61: only an illegal bus access decodes to the operation that stands for one. -/
theorem eq_bus_of_decode_subwordOrMisaligned {p : Params} {c : Code} {a : Access}
    (h : decode p c = .ok (.subwordOrMisaligned a)) : c = .bus a ∧ accessIllegal a = true := by
  cases c with
  | cmd e w =>
    simp only [decode] at h
    split at h
    · injection h with h
      exact absurd h (decodeCommand_ne_subwordOrMisaligned e w a)
    · cases h
  | bus b =>
    simp only [decode, decodeBus] at h
    split at h
    · split at h
      · next hill =>
        cases h
        exact ⟨rfl, hill⟩
      · injection h with h
        exact absurd h (decodeAt_ne_subwordOrMisaligned p _ _ _ _ a)
    · cases h

end Sys2Proof

namespace Sys2Proof.Machine

/-! ## How an operation is taken in (R63, R84, R270) -/

/-- With `rst` released, the operation that a code decodes to is run. -/
theorem takeCode_of_decode_ok {c : Code} {s : State} {i : Instr} (hr : s.rst = false)
    (h : decode s.params c = .ok i) : takeCode c s = .run i := by
  simp [takeCode, hr, h]

/-- Under `rst` or not, a code outside the block is none of the block's (Log 8, Log 9). -/
theorem takeCode_outside {c : Code} {s : State} (h : codeInBlock s.params c = false) : takeCode c s = .outside := by
  have hdec : decode s.params c = .error .outsideBlock := decode_eq_error_iff.2 h
  simp [takeCode, h, hdec]

/-- Under `rst`, a code in the block is inert, an illegal access too (R270, Log 8). -/
theorem takeCode_inert {c : Code} {s : State} (hr : s.rst = true) (h : codeInBlock s.params c = true) :
    takeCode c s = .inert (if codeIsRead c then { s with rdata := 0 } else s) := by
  simp [takeCode, hr, h]

/-! ## The step that takes an operation -/

section
variable {s : State} {c : Code} {rest : List Input} (hin : s.inputs = .op c :: rest)
include hin

theorem step_of_run {i : Instr} (h : takeCode c { s with inputs := rest } = .run i) :
    step s = exec i { s with inputs := rest } := by
  simp [step, nextInput, hin, h]

theorem step_of_inert {u : State} (h : takeCode c { s with inputs := rest } = .inert u) : step s = .next u := by
  simp [step, nextInput, hin, h]

theorem step_of_outside (h : codeInBlock s.params c = false) : step s = .refused .outsideBlock := by
  have htake : takeCode c { s with inputs := rest } = .outside := takeCode_outside h
  simp [step, nextInput, hin, htake]

/-- R66, R88: with `rst` released, a step runs the operation that its arrival decodes to. -/
theorem step_of_decode_ok (hr : s.rst = false) {i : Instr} (h : decode s.params c = .ok i) :
    step s = exec i { s with inputs := rest } :=
  step_of_run hin (takeCode_of_decode_ok hr h)

end

/-- Settles O6: the decoder's two answers are the two ways to take in an operation with `rst` released. -/
theorem stepRunsTheDecodedOperation : Obligations.StepRunsTheDecodedOperation := fun _ _ _ hr hin =>
  ⟨fun _ h => step_of_decode_ok hin hr h, fun h => step_of_outside hin (decode_eq_error_iff.1 h)⟩

/-! ## What stops -/

/-- R61: an operation that is not the illegal access completes, whatever the state. -/
theorem exec_next_of_ne_subwordOrMisaligned {i : Instr} (h : ∀ a, i ≠ .subwordOrMisaligned a) (s : State) :
    ∃ t, exec i s = .next t := by
  cases i with
  | subwordOrMisaligned a => exact absurd rfl (h a)
  | _ => exact ⟨_, rfl⟩

/-- Everything a step can answer: a next state, the refusal of an operation outside the block (R63, Log 9), or the fault
of an illegal access with `rst` released (R61, R243). -/
theorem step_outcome_cases (s : State) :
    (∃ t, step s = .next t) ∨
    (step s = .refused .outsideBlock ∧ ∃ c rest, s.inputs = .op c :: rest ∧ codeInBlock s.params c = false) ∨
    (step s = .fault .busError ∧ s.rst = false ∧
      ∃ a rest, s.inputs = .op (.bus a) :: rest ∧ accessIllegal a = true) := by
  match hin : s.inputs with
  | [] => exact .inl ⟨_, step_of_tick (.inr ⟨hin, rfl, rfl⟩)⟩
  | .tick pins :: rest => exact .inl ⟨_, step_of_tick (.inl hin)⟩
  | .rst level :: rest => exact .inl ⟨resetInput level { s with inputs := rest }, by simp [step, nextInput, hin]⟩
  | .op c :: rest =>
    cases hblock : codeInBlock s.params c with
    | false => exact .inr (.inl ⟨step_of_outside hin hblock, c, rest, rfl, hblock⟩)
    | true =>
      cases hr : s.rst with
      | true => exact .inl ⟨_, step_of_inert hin (takeCode_inert hr hblock)⟩
      | false =>
        cases hdec : decode s.params c with
        | error r => simp [decode_eq_error_iff.1 hdec] at hblock
        | ok i =>
          have hstep := step_of_decode_ok hin hr hdec
          by_cases hi : ∃ a, i = .subwordOrMisaligned a
          · obtain ⟨a, rfl⟩ := hi
            obtain ⟨rfl, hill⟩ := eq_bus_of_decode_subwordOrMisaligned hdec
            exact .inr (.inr ⟨hstep, rfl, a, rest, rfl, hill⟩)
          · rw [hstep]
            exact .inl (exec_next_of_ne_subwordOrMisaligned (not_exists.1 hi) _)

/-- Settles O10: every operation but the illegal access answers a next state, and a step has three kinds of answer. -/
theorem onlyIllegalAccessesStop : Obligations.OnlyIllegalAccessesStop := by
  refine ⟨fun i s hi => exec_next_of_ne_subwordOrMisaligned hi s, fun s r h => ?_, fun s r h => ?_⟩
  · obtain ⟨t, hnext⟩ | ⟨hrefused, hout⟩ | ⟨hfault, -⟩ := step_outcome_cases s
    · cases hnext.symm.trans h
    · cases hrefused.symm.trans h
      exact ⟨rfl, hout⟩
    · cases hfault.symm.trans h
  · obtain ⟨t, hnext⟩ | ⟨hrefused, -⟩ | ⟨-, hr, a, rest, hin, hill⟩ := step_outcome_cases s
    · cases hnext.symm.trans h
    · cases hrefused.symm.trans h
    · exact ⟨hr, a, rest, hin, accessIllegal_iff.1 hill⟩

end Sys2Proof.Machine
end

section
/-! The registers as the host writes and reads them (R63, R108, R111). -/

namespace Sys2Proof.Machine

/-! ## Reads -/

/-- R111: a read at an existing register's offset returns the register. -/
theorem exec_regRead_offset (s : State) (e : EngineId) {r : Reg}
    (hk : ∀ k, r = .capData k → k.val < s.params.capDepth) :
    exec (.regRead e (BitVec.ofNat 9 r.offset)) s = .next { s with rdata := regValue s e r } := by
  have htoNat : (BitVec.ofNat 9 r.offset).toNat = r.offset :=
    (BitVec.toNat_ofNat r.offset 9).trans (Nat.mod_eq_of_lt (Reg.offset_lt r).1)
  simp [exec, execRegRead, readOffset, htoNat, Reg.ofOffset_offset s.params r hk]

/-- R63: a read at a reserved offset returns 0. -/
theorem exec_regRead_reserved {s : State} (e : EngineId) {off : BitVec 9} (h : offsetReserved s.params off = true) :
    exec (.regRead e off) s = .next { s with rdata := 0 } := by
  simp [exec, execRegRead, readOffset, Reg.ofOffset_reserved h]

/-- Settles O28: no register stands at a reserved offset, and the write's meaning is no effect. -/
theorem reservedOffsetsReadZeroAndIgnoreWrites : Obligations.ReservedOffsetsReadZeroAndIgnoreWrites :=
  fun e _ _ _ h => ⟨rfl, exec_regRead_reserved e h⟩

/-! ## Configuration registers -/

/-- The configuration registers in the order of the offset table (R21). -/
def RwReg.all : List RwReg := [.ctrl, .cfg, .tSettle, .tLow, .tRel, .tResp, .tRxto, .tIdle, .tRetry, .bitThr]

/-- The register of the bank (R21) that a configuration register is. -/
def RwReg.reg : RwReg → Reg
  | .ctrl => .ctrl
  | .cfg => .cfg
  | .tSettle => .tSettle
  | .tLow => .tLow
  | .tRel => .tRel
  | .tResp => .tResp
  | .tRxto => .tRxto
  | .tIdle => .tIdle
  | .tRetry => .tRetry
  | .bitThr => .bitThr

theorem RwReg.reg_ne_capData (r : RwReg) (k : Fin 64) : r.reg ≠ .capData k := by
  cases r <;> simp [RwReg.reg]

/-- R108: the write that the decoder gives for a configuration register is that register's configuration write. -/
theorem exec_writeOf_reg (s : State) (e : EngineId) (d : Word) (r : RwReg) :
    exec (writeOf e d r.reg) s = .next (s.modEng e (configWrite r d)) := by
  cases r <;> rfl

/-- R21, R111: a configuration register reads as its stored word under its mask. -/
theorem regValue_reg (s : State) (e : EngineId) (r : RwReg) : regValue s e r.reg = r.get (s.eng e) &&& r.mask := by
  cases r with
  | ctrl | cfg | tIdle | bitThr => rfl
  | tSettle | tLow | tRel | tResp | tRxto | tRetry => exact BitVec.and_allOnes.symm

/-- R108: while not BUSY, a configuration write stores the masked word. -/
theorem get_configWrite {x : Engine} (hbusy : x.busy = false) (r : RwReg) (d : Word) :
    r.get (configWrite r d x) = d &&& r.mask := by
  simp [configWrite, hbusy, RwReg.get_set]

/-- R108, R111: while not BUSY, what a configuration write stored is what the register reads. -/
theorem regValue_configWrite {s : State} {e : EngineId} (hbusy : (s.eng e).busy = false) (r : RwReg) (d : Word) :
    regValue (s.modEng e (configWrite r d)) e r.reg = d &&& r.mask := by
  rw [regValue_reg, State.eng_modEng_same, get_configWrite hbusy, BitVec.and_assoc, BitVec.and_self]

/-- Settles O24: each row of the statement's table is a configuration register's write, offset and mask. -/
theorem configurationReadsBack : Obligations.ConfigurationReadsBack := by
  intro e d s t u i r m hbusy hrow hwrite hread
  obtain ⟨w, -, hw⟩ : ∃ w ∈ RwReg.all, (writeOf e d w.reg, w.reg, w.mask) = (i, r, m) := List.mem_map.1 hrow
  cases hw
  cases (exec_writeOf_reg s e d w).symm.trans hwrite
  cases (exec_regRead_offset _ e fun k hk => absurd hk (w.reg_ne_capData k)).symm.trans hread
  exact regValue_configWrite hbusy w d

end Sys2Proof.Machine
end

section
/-! The encoding (30_encoding.md): the table of command words (R86, R87), the offset table read backwards (R63, R84), and
the agreement of the decoder with the encoder and with the CMD write. -/

namespace Sys2Proof
open Machine

/-! ## Command words (R80, R86, R87) -/

/-- R80: a command word is its two fields. -/
theorem cmdMbz_append_cmdCode (w : Word) : cmdMbz w ++ cmdCode w = w :=
  (BitVec.extractLsb'_append_extractLsb'_eq_extractLsb' rfl).trans BitVec.extractLsb'_eq_self

/-- R86, R87: the codes are 0 to 7, each for itself, and 8 to 15. -/
theorem cmdCode_cases : ∀ code : BitVec 4,
    code ∈ [0, 1, 2, 3, 4, 5, 6, 7] ∨ ∃ low : BitVec 3, code = 1#1 ++ low := by decide

/-- R86, R87: every word is in one row of the table of command words. -/
theorem commandWord_cases {P : Word → Prop} (nop : P 0) (read : P 1) (transact : P 2) (decode : P 3) (config : P 4)
    (unconfig : P 5) (capclr : P 6) (reserved7 : P 7) (reserved8F : ∀ low : BitVec 3, P (0#28 ++ (1#1 ++ low)))
    (reservedMbz : ∀ (mbz : BitVec 28) (code : BitVec 4), mbz ≠ 0 → P (mbz ++ code)) (w : Word) : P w := by
  rw [← cmdMbz_append_cmdCode w]
  by_cases hmbz : cmdMbz w = 0
  · rw [hmbz]
    obtain hcode | ⟨low, hlow⟩ := cmdCode_cases (cmdCode w)
    · simp only [List.mem_cons, List.not_mem_nil, or_false] at hcode
      obtain h | h | h | h | h | h | h | h := hcode <;> rw [h] <;> assumption
    · rw [hlow]
      exact reserved8F low
  · exact reservedMbz _ _ hmbz

/-- R87: codes 8 to 15 with MBZ zero. -/
theorem decodeCommand_reserved8F (e : EngineId) (low : BitVec 3) :
    decodeCommand e (0#28 ++ (1#1 ++ low)) = .reservedCmd8F e low := by
  revert e low
  decide

/-- R87: MBZ not zero, any code. -/
theorem decodeCommand_reservedMbz (e : EngineId) {mbz : BitVec 28} (code : BitVec 4) (h : mbz ≠ 0) :
    decodeCommand e (mbz ++ code) = .reservedCmdMbz e mbz code := by
  obtain ⟨hmbz, hcode⟩ := cmd_word_fields mbz code
  simp only [decodeCommand, hmbz, hcode]
  exact if_pos h

theorem cmdReserved_reserved8F : ∀ low : BitVec 3, cmdReserved (0#28 ++ (1#1 ++ low)) = true := by decide

theorem cmdReserved_reservedMbz {mbz : BitVec 28} (code : BitVec 4) (h : mbz ≠ 0) :
    cmdReserved (mbz ++ code) = true := by
  obtain ⟨hmbz, -⟩ := cmd_word_fields mbz code
  rw [cmdReserved, cmdMbz, hmbz, decide_eq_true h, Bool.true_or]

/-- R80, R86, R87: the operation of a command word encodes as that word. -/
theorem encode_decodeCommand (p : Params) (e : EngineId) (w : Word) : encode p (decodeCommand e w) = .cmd e w := by
  induction w using commandWord_cases with
  | reserved8F low => rw [decodeCommand_reserved8F, encode]
  | reservedMbz mbz code h => rw [decodeCommand_reservedMbz e code h, encode]
  | _ => rfl

/-- R87: the reserved words are those whose operation is a reserved command. -/
theorem cmdReserved_iff (e : EngineId) (w : Word) : cmdReserved w = true ↔
    (decodeCommand e w = .reservedCmd7 e ∨ (∃ low, decodeCommand e w = .reservedCmd8F e low) ∨
      ∃ mbz code, decodeCommand e w = .reservedCmdMbz e mbz code) := by
  induction w using commandWord_cases with
  | reserved7 => exact iff_of_true rfl (.inl rfl)
  | reserved8F low => exact iff_of_true (cmdReserved_reserved8F low) (.inr (.inl ⟨low, decodeCommand_reserved8F e low⟩))
  | reservedMbz mbz code h =>
    exact iff_of_true (cmdReserved_reservedMbz code h) (.inr (.inr ⟨mbz, code, decodeCommand_reservedMbz e code h⟩))
  | _ => exact iff_of_false (by decide) (by rintro (h | ⟨_, h⟩ | ⟨_, _, h⟩) <;> cases h)

/-- R86: the operation of a command word asks for an existing engine, and for nothing else. -/
theorem wellFormed_decodeCommand (p : Params) (e : EngineId) (w : Word) :
    wellFormed p (decodeCommand e w) = engineExists p e := by
  induction w using commandWord_cases with
  | reserved8F low => rw [decodeCommand_reserved8F, wellFormed]
  | reservedMbz mbz code h => rw [decodeCommand_reservedMbz e code h, wellFormed, decide_eq_true h, Bool.and_true]
  | _ => rfl

/-- R60, R86: a command word written to an existing engine is decoded by the table of command words. -/
theorem decode_cmd {p : Params} {e : EngineId} (he : engineExists p e = true) (w : Word) :
    decode p (.cmd e w) = .ok (decodeCommand e w) := if_pos he

/-- Settles O3: each row of the table of command words is one operation that encodes back. -/
theorem everyCommandWordHasOneOperation : Obligations.EveryCommandWordHasOneOperation := fun p e w he =>
  ⟨decode_cmd he w, encode_decodeCommand p e w, cmdReserved_iff e w⟩

/-- Settles O17: row by row of the table of command words, the CMD write has the meaning of the row's operation. -/
theorem cmdWriteRunsTheDecodedCommand : Obligations.CmdWriteRunsTheDecodedCommand := by
  intro e w s
  have hreserved {v : Word} (h : cmdReserved v = true) : exec (.cmdWrite e v) s = .next (s.modEng e flagCmderr) :=
    congrArg Host.Outcome.next (if_pos h)
  induction w using commandWord_cases with
  | reserved8F low => rw [hreserved (cmdReserved_reserved8F low), decodeCommand_reserved8F]; rfl
  | reservedMbz mbz code h => rw [hreserved (cmdReserved_reservedMbz code h), decodeCommand_reservedMbz e code h]; rfl
  | _ => rfl

/-- Settles O15: each reserved form means setting CMDERR, in whatever state. -/
theorem reservedCommandsOnlySetCmderr : Obligations.ReservedCommandsOnlySetCmderr :=
  fun _ _ _ _ _ => ⟨rfl, rfl, rfl⟩

/-! ## The offset table, read backwards (R21, R63) -/

/-- R21: the CAP_DATA slot found at an offset exists and stands there. -/
theorem Reg.capSlot_eq_some {p : Params} {off : Nat} {r : Reg} (h : Reg.capSlot p off = some r) :
    ∃ k : Fin 64, r = .capData k ∧ k.val < p.capDepth := by
  unfold Reg.capSlot at h
  split at h
  · cases h
    exact ⟨_, rfl, by dsimp only; omega⟩
  · cases h

/-- R42: a CAP_DATA slot that is found at an offset is below CAP_DEPTH. -/
theorem Reg.ofOffset_capData {p : Params} {off : Nat} {k : Fin 64} (h : Reg.ofOffset p off = some (.capData k)) :
    k.val < p.capDepth := by
  unfold Reg.ofOffset at h
  split at h
  · next hfind =>
    cases h
    exact absurd (List.mem_of_find?_eq_some hfind) (by simp [Reg.fixed])
  · obtain ⟨_, hr, hk⟩ := Reg.capSlot_eq_some h
    cases hr
    exact hk

/-- R63: an offset in a bank where no register stands is reserved. -/
theorem offsetReserved_of_ofOffset_none {p : Params} {off : Nat} (hlt : off < 0x200) (halign : off % 4 = 0)
    (h : Reg.ofOffset p off = none) : offsetReserved p (BitVec.ofNat 9 off) = true := by
  unfold Reg.ofOffset at h
  split at h
  · cases h
  · next hfind =>
    have hslot : ¬(0x100 ≤ off ∧ off < 0x100 + 4 * p.capDepth ∧ off % 4 = 0 ∧ off < 0x200) := by
      intro hin
      rw [Reg.capSlot, dif_pos hin] at h
      cases h
    have hfixed : 0x050 ≤ off := by
      simp [Reg.fixed, Reg.offset] at hfind
      omega
    have htoNat : (BitVec.ofNat 9 off).toNat = off := (BitVec.toNat_ofNat off 9).trans (Nat.mod_eq_of_lt hlt)
    simp only [offsetReserved, htoNat, Bool.and_eq_true, decide_eq_true_eq]
    omega

/-! ## Bus accesses (R60, R84) -/

/-- R60: an address in the block selects an existing engine. -/
theorem engineExists_selectEngine {p : Params} {addr : Nat} (hp : p.wf = true) (h : addressInBlock p addr = true) :
    engineExists p (selectEngine p addr) = true := by
  obtain ⟨-, -, hn, -⟩ := Params.wf_ranges hp
  rw [addressInBlock_iff] at h
  refine decide_eq_true (?_ : (addr - p.base) / 0x200 % 8 < p.nInst)
  omega

/-- R84: the write of a register asks for an existing engine and, in the CAP_DATA window, for an existing slot. -/
theorem wellFormed_writeOf {p : Params} {e : EngineId} (d : Word) {r : Reg} (he : engineExists p e = true)
    (hk : ∀ k, r = .capData k → k.val < p.capDepth) : wellFormed p (writeOf e d r) = true := by
  cases r with
  | capData k => simp [writeOf, wellFormed, he, hk k rfl]
  | _ => exact he

/-- R63, R84: the operation of a legal access in an existing engine's bank is well-formed. -/
theorem wellFormed_decodeAt {p : Params} {e : EngineId} {off : Nat} (dir : Dir) (d : Word)
    (he : engineExists p e = true) (hlt : off < 0x200) (halign : off % 4 = 0) :
    wellFormed p (decodeAt p e off dir d) = true := by
  cases dir with
  | read => simp [decodeAt, wellFormed, he, Nat.mod_eq_of_lt hlt, halign]
  | write =>
    simp only [decodeAt]
    split
    · next r hr => exact wellFormed_writeOf d he fun k hk => Reg.ofOffset_capData (hk ▸ hr)
    · next hr => simp [wellFormed, he, offsetReserved_of_ofOffset_none hlt halign hr]

/-- R60, R61, R84: the operation of a bus access is well-formed. -/
theorem wellFormed_of_decodeBus {p : Params} {a : Access} {i : Instr} (hp : p.wf = true)
    (h : decodeBus p a = .ok i) : wellFormed p i = true := by
  unfold decodeBus at h
  split at h
  · next hin =>
    split at h
    · next hill =>
      cases h
      simp [wellFormed, hin, hill]
    · next hlegal =>
      cases h
      obtain ⟨hbase, -⟩ := Params.wf_ranges hp
      have halign : (a.addr - p.base) % 0x200 % 4 = 0 := by
        simp only [accessIllegal_iff, not_or, not_not] at hlegal
        omega
      exact wellFormed_decodeAt _ _ (engineExists_selectEngine hp hin) (Nat.mod_lt _ (by decide)) halign
  · cases h

/-- Settles O2: a command word asks for its engine only, and a bus access selects an existing engine and an offset of its
bank. -/
theorem decodedOperationIsWellFormed : Obligations.DecodedOperationIsWellFormed := by
  intro p c i hp h
  cases c with
  | cmd e w =>
    cases he : engineExists p e with
    | true =>
      rw [decode_cmd he] at h
      cases h
      rw [wellFormed_decodeCommand, he]
    | false => simp [decode, he] at h
  | bus a => exact wellFormed_of_decodeBus hp h

/-- R60, R84: the 32-bit access to an aligned offset of an existing engine's bank is decoded as that access. -/
theorem decode_busAddress {p : Params} {e : EngineId} {off : Nat} (dir : Dir) (d : Word) (hp : p.wf = true)
    (he : engineExists p e = true) (hlt : off < 0x200) (halign : off % 4 = 0) :
    decode p (.bus ⟨dir, .w32, busAddress p e off, d⟩) = .ok (decodeAt p e off dir d) := by
  obtain ⟨hbase, -⟩ := Params.wf_ranges hp
  have hlegal : accessIllegal ⟨dir, .w32, busAddress p e off, d⟩ = false := by
    rw [Bool.eq_false_iff, ne_eq, accessIllegal_iff]
    simp only [busAddress, ne_eq, not_true_eq_false, false_or, not_not]
    omega
  exact decode_bus_of_bank he hlt rfl hlegal

/-- R84, R91: the word written to a register's offset is decoded as the register's write. -/
theorem decode_busWrite_offset {p : Params} {e : EngineId} {d : Word} {r : Reg} (hp : p.wf = true)
    (he : engineExists p e = true) (hk : ∀ k, r = .capData k → k.val < p.capDepth) :
    decode p (busWrite p e r.offset d) = .ok (writeOf e d r) := by
  obtain ⟨hlt, halign⟩ := Reg.offset_lt r
  rw [busWrite, decode_busAddress _ d hp he hlt halign, decodeAt_write_offset e d hk]

/-- Settles O1: a command encodes as its word, a register's write as the register's offset, and every other operation
carries its own offset or access. -/
theorem decodeOfEncodeIsTheOperation : Obligations.DecodeOfEncodeIsTheOperation := by
  intro p i hp hi
  cases i with
  | nop e | read e | transact e | decode e | config e | unconfig e | capclr e | reservedCmd7 e => exact decode_cmd hi _
  | reservedCmd8F e low => rw [encode, decode_cmd hi, decodeCommand_reserved8F]
  | reservedCmdMbz e mbz code =>
    simp only [wellFormed, Bool.and_eq_true, decide_eq_true_eq] at hi
    obtain ⟨he, hmbz⟩ := hi
    rw [encode, decode_cmd he, decodeCommand_reservedMbz e code hmbz]
  | cmdWrite e d | wrCtrl e d | wrCfg e d | wrTSettle e d | wrTLow e d | wrTRel e d | wrTResp e d | wrTRxto e d
  | wrTIdle e d | wrTRetry e d | wrBitThr e d | statusW1c e d | capWdataWrite e d | roWriteAttlog e d
  | roWriteResHum e d | roWriteResTemp e d | roWriteResRaw e d | roWriteResCsum e d | roWriteCapCount e d
  | roWriteAct e d => exact decode_busWrite_offset hp hi nofun
  | roWriteCapData e k d =>
    simp only [wellFormed, Bool.and_eq_true, decide_eq_true_eq] at hi
    obtain ⟨he, hk⟩ := hi
    exact decode_busWrite_offset (r := .capData k) hp he fun _ h => by cases h; exact hk
  | regRead e off =>
    simp only [wellFormed, Bool.and_eq_true, decide_eq_true_eq] at hi
    obtain ⟨he, halign⟩ := hi
    rw [encode, busRead, decode_busAddress .read 0 hp he off.isLt halign, decodeAt, BitVec.ofNat_toNat,
      BitVec.setWidth_eq]
  | reservedWrite e off d =>
    simp only [wellFormed, Bool.and_eq_true] at hi
    obtain ⟨he, hres⟩ := hi
    have halign : off.toNat % 4 = 0 := by
      simp only [offsetReserved, Bool.and_eq_true, decide_eq_true_eq] at hres
      exact hres.1
    rw [encode, busWrite, decode_busAddress .write d hp he off.isLt halign, decodeAt_write_reserved e d hres]
  | subwordOrMisaligned a =>
    simp only [wellFormed, Bool.and_eq_true] at hi
    obtain ⟨hin, hill⟩ := hi
    simp [encode, decode, decodeBus, hin, hill]

/-! ## The opcode table's numbering (Log 6) -/

theorem decodeTableWord_command (w : Nat) : decodeTableWord 32 w = some (decodeCommand 0 (BitVec.ofNat 32 w)) := rfl

theorem decodeTableWord_offset {off : Nat} (hlt : off < 0x200) (halign : off % 4 = 0) :
    decodeTableWord 16 off = some (decodeAt Params.test 0 off .write 0) := by
  have hdec : decode Params.test (tableCode Params.test 16 off) = .ok (decodeAt Params.test 0 off .write 0) :=
    decode_busAddress .write 0 (by decide) (by decide) hlt halign
  rw [decodeTableWord, hdec]

/-- Settles O4: a word of 32 bits is looked up among the command words, a shorter one in the offset table. -/
theorem wordsDecodeAsTheTablesSay : Obligations.WordsDecodeAsTheTablesSay := by
  refine ⟨decodeTableWord_command 0, decodeTableWord_command 1, decodeTableWord_command 2, decodeTableWord_command 3,
    decodeTableWord_command 4, decodeTableWord_command 5, decodeTableWord_command 6, decodeTableWord_command 0x80000001,
    ?_, ?_, ?_, ?_, ?_, ?_⟩ <;>
    exact decodeTableWord_offset (by decide) (by decide)

end Sys2Proof
end

section
/-! The commands (40_host_commands.md): acceptance of a command word (R100), and what each accepted command leaves behind
(R101-R107). -/

namespace Sys2Proof.Machine

/-! ## Acceptance (R100) -/

theorem State.modEng_modEng (s : State) (e : EngineId) (f g : Engine → Engine) :
    (s.modEng e f).modEng e g = s.modEng e (fun x => g (f x)) := by
  simp [State.modEng]

/-- R87: a reserved command word, by its two fields. -/
theorem cmdReserved_iff_fields {w : Word} :
    cmdReserved w = true ↔ w.extractLsb' 4 28 ≠ 0 ∨ 7 ≤ (w.extractLsb' 0 4).toNat := by
  rw [cmdReserved, Bool.or_eq_true, decide_eq_true_eq, decide_eq_true_eq, cmdMbz, cmdCode]

theorem exec_cmdWrite_reserved {w : Word} (h : cmdReserved w = true) (e : EngineId) (s : State) :
    exec (.cmdWrite e w) s = .next (s.modEng e flagCmderr) :=
  congrArg Host.Outcome.next (if_pos h)

/-- R86, R100: a command that is neither reserved nor NOP has an effect, which runs after acceptance in both of its
forms. -/
theorem exec_command (e : EngineId) : ∀ ci ∈ [((1 : Word), Instr.read e), (2, .transact e), (3, .decode e),
    (4, .config e), (5, .unconfig e), (6, .capclr e)],
    ∃ effect : State → State, ∀ s, exec (.cmdWrite e ci.1) s = exec ci.2 s ∧
      exec ci.2 s = .next (acceptCommand e effect s) := by
  simp only [List.forall_mem_cons, List.not_mem_nil, false_imp_iff, implies_true, and_true]
  refine ⟨?_, ?_, ?_, ?_, ?_, ?_⟩ <;> exact ⟨_, fun _ => ⟨rfl, rfl⟩⟩

/-- R100: acceptance clears DONE and ERR, so that it does not matter what they were. -/
theorem acceptCommand_clearDoneErr {e : EngineId} {s : State} (effect : State → State) (h : (s.eng e).busy = false) :
    acceptCommand e effect (s.modEng e clearDoneErr) = acceptCommand e effect s := by
  have hbusy : ((s.modEng e clearDoneErr).eng e).busy = false := by rwa [State.eng_modEng_same]
  rw [acceptCommand_idle effect hbusy, acceptCommand_idle effect h, State.modEng_modEng]
  rfl

/-- Settles O16: a reserved word is refused before acceptance, NOP's word has no effect, and every other word is one of
the commands that acceptance lets through or ignores. -/
theorem cmdWriteAcceptance : Obligations.CmdWriteAcceptance := by
  refine fun e w s => ⟨fun h => exec_cmdWrite_reserved (cmdReserved_iff_fields.2 h) e s, ?_, ?_⟩
  · rintro rfl
    rfl
  · rintro ci hci rfl
    obtain ⟨effect, heffect⟩ := exec_command e ci hci
    obtain ⟨hform, hexec⟩ := heffect s
    refine ⟨hform, fun hbusy => ?_, fun hidle => ⟨?_, _, hexec⟩⟩
    · rw [hexec, acceptCommand_busy effect hbusy]
      rfl
    · obtain ⟨-, hexec'⟩ := heffect (s.modEng e clearDoneErr)
      rw [hexec, ← acceptCommand_clearDoneErr effect hidle, ← hexec']
      rfl

/-- Settles O14: NOP's meaning is no effect, in whatever state. -/
theorem nopHasNoEffect : Obligations.NopHasNoEffect := fun _ _ => rfl

/-! ## Frames of one engine's updates -/

theorem SameOutside.trans {e : EngineId} {s t u : State} (h : SameOutside e s t) (h' : SameOutside e t u) :
    SameOutside e s u := by
  obtain ⟨hp, hd, hr, hi, hn, hf⟩ := h
  obtain ⟨hp', hd', hr', hi', hn', hf'⟩ := h'
  exact ⟨hp'.trans hp, hd'.trans hd, hr'.trans hr, hi'.trans hi, hn'.trans hn,
    fun f hne => (hf' f hne).trans (hf f hne)⟩

theorem sameOutside_modEng (s : State) (e : EngineId) (g : Engine → Engine) : SameOutside e s (s.modEng e g) :=
  ⟨rfl, rfl, rfl, rfl, rfl, fun _ hf => State.eng_modEng_ne s g hf⟩

theorem sameOutside_dropClaim (e : EngineId) (s : State) : SameOutside e s (dropClaim e s) := by
  obtain ⟨-, hother, -, -, -, hp, hd, hr, hi, hn⟩ := dropClaim_spec e s
  exact ⟨hp, hd, hr, hi, hn, hother⟩

theorem sameOutside_takeClaim (e : EngineId) (p : BitVec 6) (c : BitVec 3) (s : State) :
    SameOutside e s (takeClaim e p c s) := by
  obtain ⟨-, hother, -, -, -, hp, hd, hr, hi, hn⟩ := takeClaim_spec e p c s
  exact ⟨hp, hd, hr, hi, hn, hother⟩

/-! ## CONFIG and UNCONFIG (R102, R103) -/

/-- R102, R103: what acceptance and the first part of CONFIG and UNCONFIG make of a state: DONE, ERR and the results
cleared, the old claim dropped. -/
def unclaimed (e : EngineId) (s : State) : State := dropClaim e ((s.modEng e clearDoneErr).modEng e clearResults)

theorem unclaimed_eng (e : EngineId) (s : State) :
    (unclaimed e s).eng e = { clearResults (clearDoneErr (s.eng e)) with cfgd := false } := by
  obtain ⟨hself, -⟩ := dropClaim_spec e ((s.modEng e clearDoneErr).modEng e clearResults)
  simpa [unclaimed] using hself

theorem sameOutside_unclaimed (e : EngineId) (s : State) : SameOutside e s (unclaimed e s) :=
  ((sameOutside_modEng s e _).trans (sameOutside_modEng _ e _)).trans (sameOutside_dropClaim e _)

theorem unclaimed_buf (e : EngineId) (s : State) (d : BitVec 3) : (unclaimed e s).buf d = s.buf d := by
  obtain ⟨-, -, -, -, hbuf, -⟩ := dropClaim_spec e ((s.modEng e clearDoneErr).modEng e clearResults)
  exact hbuf d

theorem unclaimed_chanOwnerOf (e : EngineId) (s : State) (d : BitVec 3) : (unclaimed e s).chanOwnerOf d =
    if (s.eng e).cfgd = true ∧ (s.eng e).chan = d then none else s.chanOwnerOf d := by
  obtain ⟨-, -, hchan, -⟩ := dropClaim_spec e ((s.modEng e clearDoneErr).modEng e clearResults)
  simpa [unclaimed, clearResults, clearDoneErr] using hchan d

theorem unclaimed_pinOwnerOf (e : EngineId) (s : State) (q : BitVec 6) : (unclaimed e s).pinOwnerOf q =
    if (s.eng e).cfgd = true ∧ (s.eng e).pin = q then none else s.pinOwnerOf q := by
  obtain ⟨-, -, -, hpin, -⟩ := dropClaim_spec e ((s.modEng e clearDoneErr).modEng e clearResults)
  simpa [unclaimed, clearResults, clearDoneErr] using hpin q

/-- R102: pin and channel are tested after the old claim is dropped, so that the engine's own do not stand in its way. -/
theorem claimAllowed_unclaimed_iff {e : EngineId} {s : State} {p : BitVec 6} {c : BitVec 3} :
    claimAllowed (unclaimed e s) p c = true ↔
      p.toNat < s.params.nPins ∧ p.toNat ∈ s.params.validPins ∧ c.toNat < s.params.nChan ∧
      (s.chanOwnerOf c = none ∨ ((s.eng e).cfgd = true ∧ (s.eng e).chan = c)) ∧
      (s.pinOwnerOf p = none ∨ ((s.eng e).cfgd = true ∧ (s.eng e).pin = p)) := by
  obtain ⟨hparams, -⟩ := sameOutside_unclaimed e s
  have hfree {α : Type} {P : Prop} [Decidable P] {o : Option α} : (if P then none else o) = none ↔ o = none ∨ P := by
    by_cases hP : P <;> simp [hP]
  simp only [claimAllowed, hparams, unclaimed_chanOwnerOf, unclaimed_pinOwnerOf, Bool.and_eq_true, decide_eq_true_eq,
    hfree, and_assoc]

/-- R102: CONFIG tests and claims the pin and channel of CFG in the unclaimed state. -/
theorem exec_config {e : EngineId} {s : State} (h : (s.eng e).busy = false) {p : BitVec 6} {c : BitVec 3}
    (hp : cfgPin (s.eng e).cfg = p) (hc : cfgChan (s.eng e).cfg = c) :
    exec (.config e) s = .next
      (if claimAllowed (unclaimed e s) p c then
        (takeClaim e p c (unclaimed e s)).modEng e fun x => finish .none (emit (.capStop c) (emit (.capStart c) x))
      else (unclaimed e s).modEng e (finish .peripheralConfigError)) := by
  have hcfg : ((unclaimed e s).eng e).cfg = (s.eng e).cfg := by rw [unclaimed_eng]; rfl
  rw [← hp, ← hc, ← hcfg]
  exact congrArg Host.Outcome.next (acceptCommand_idle (configEffect e) h)

/-- R103: what is left after acceptance and the drop of the claim, with the pin released and the completion record. -/
theorem exec_unconfig {e : EngineId} {s : State} (h : (s.eng e).busy = false) :
    exec (.unconfig e) s = .next ((unclaimed e s).modEng e fun x => finish .none (driveGpio Gpio.released x)) :=
  congrArg Host.Outcome.next (acceptCommand_idle (unconfigEffect e) h)

/-- Settles O18: the test is that of the unclaimed state, whose pin and channel are then taken or not. -/
theorem configClaimsOrFails : Obligations.ConfigClaimsOrFails := by
  intro e s hidle x p c ok
  have hexec := exec_config hidle (p := p) (c := c) rfl rfl
  have hallowed : claimAllowed (unclaimed e s) p c = true ↔ ok := claimAllowed_unclaimed_iff
  have hout := sameOutside_unclaimed e s
  by_cases hok : ok
  · rw [if_pos (hallowed.2 hok)] at hexec
    obtain ⟨hself, -, hchan, hpin, hbuf, -⟩ := takeClaim_spec e p c (unclaimed e s)
    refine ⟨_, hexec, (hout.trans (sameOutside_takeClaim e p c _)).trans (sameOutside_modEng _ e _),
      fun _ => ⟨?_, (hchan c).trans (if_pos rfl), (hpin p).trans (if_pos rfl), fun d hd => ?_, fun q hq => ?_, ?_,
        fun d hd => ?_⟩,
      fun hnot => absurd hok hnot⟩
    · refine (State.eng_modEng_same ..).trans ?_
      rw [hself, unclaimed_eng]
      simp [finish, emit, clearResults, clearDoneErr, x]
    · exact ((hchan d).trans (if_neg (Ne.symm hd))).trans (unclaimed_chanOwnerOf e s d)
    · exact ((hpin q).trans (if_neg (Ne.symm hq))).trans (unclaimed_pinOwnerOf e s q)
    · exact ((hbuf c).trans (if_pos rfl)).trans (congrArg CapBuf.empty (unclaimed_buf e s c))
    · exact ((hbuf d).trans (if_neg (Ne.symm hd))).trans (unclaimed_buf e s d)
  · rw [if_neg fun h => hok (hallowed.1 h)] at hexec
    refine ⟨_, hexec, hout.trans (sameOutside_modEng _ e _), fun h => absurd h hok,
      fun _ => ⟨?_, unclaimed_chanOwnerOf e s, unclaimed_pinOwnerOf e s, unclaimed_buf e s⟩⟩
    rw [State.eng_modEng_same, unclaimed_eng]
    rfl

/-- Settles O19: UNCONFIG leaves the unclaimed state, with the pin released and the command complete. -/
theorem unconfigReleases : Obligations.UnconfigReleases := by
  intro e s hidle
  refine ⟨_, exec_unconfig hidle, (sameOutside_unclaimed e s).trans (sameOutside_modEng _ e _), ?_,
    unclaimed_chanOwnerOf e s, unclaimed_pinOwnerOf e s, unclaimed_buf e s⟩
  rw [State.eng_modEng_same, unclaimed_eng]
  simp [finish, driveGpio, emit, clearResults, clearDoneErr, Gpio.released]

/-! ## CAPCLR (R104) -/

theorem exec_capclr {e : EngineId} {s : State} (h : (s.eng e).busy = false) :
    exec (.capclr e) s = .next (capclrEffect e (s.modEng e clearDoneErr)) :=
  congrArg Host.Outcome.next (acceptCommand_idle (capclrEffect e) h)

theorem capclrEffect_of_cfgd {e : EngineId} {s : State} (h : (s.eng e).cfgd = true) :
    capclrEffect e s = (s.setBuf (s.eng e).chan (s.buf (s.eng e).chan).empty).modEng e (finish .none) := if_pos h

theorem capclrEffect_of_not_cfgd {e : EngineId} {s : State} (h : (s.eng e).cfgd = false) :
    capclrEffect e s = s.modEng e (finish .peripheralConfigError) := if_neg (by simp [h])

/-- Settles O20: CAPCLR empties the buffer of the claim, which acceptance leaves alone. -/
theorem capclrEmptiesTheOwnedBuffer : Obligations.CapclrEmptiesTheOwnedBuffer := by
  refine fun e s hidle => ⟨fun hcfgd => ?_, fun hcfgd => ?_⟩
  · rw [exec_capclr hidle, capclrEffect_of_cfgd (by rwa [State.eng_modEng_same])]
    simp [State.modEng, finish, emit, clearDoneErr, CapBuf.empty]
  · rw [exec_capclr hidle, capclrEffect_of_not_cfgd (by rwa [State.eng_modEng_same]), State.modEng_modEng]
    rfl

/-! ## DECODE (R105) -/

theorem exec_decode {e : EngineId} {s : State} (h : (s.eng e).busy = false) :
    exec (.decode e) s = .next (decodeEffect e (s.modEng e clearDoneErr)) :=
  congrArg Host.Outcome.next (acceptCommand_idle (decodeEffect e) h)

theorem decodeEffect_of_cfgd {e : EngineId} {s : State} (h : (s.eng e).cfgd = true) {r : DecodeResult}
    (hr : decodeBuffer (s.eng e) (s.ownBuf e) = r) :
    decodeEffect e s = s.modEng e fun x => finish r.code (publish r (clearResults x)) := by
  subst hr
  rw [decodeEffect, State.eng_modEng_same]
  exact (if_pos h).trans (State.modEng_modEng ..)

theorem decodeEffect_of_not_cfgd {e : EngineId} {s : State} (h : (s.eng e).cfgd = false) :
    decodeEffect e s = s.modEng e fun x => finish .peripheralConfigError (clearResults x) := by
  rw [decodeEffect, State.eng_modEng_same]
  exact (if_neg (by simp [clearResults, h])).trans (State.modEng_modEng ..)

/-- R105, R196, R197: DECODE of a configured engine completes with the result's code, the results published or clear. -/
theorem exec_decode_of_cfgd {e : EngineId} {s : State} (hidle : (s.eng e).busy = false)
    (hcfgd : (s.eng e).cfgd = true) {r : DecodeResult} (hr : decodeBuffer (s.eng e) (s.ownBuf e) = r) :
    exec (.decode e) s = .next (s.setEng e (finish r.code (publish r (clearResults (clearDoneErr (s.eng e)))))) := by
  have hbuf : (s.modEng e clearDoneErr).ownBuf e = s.ownBuf e := by rw [State.ownBuf, State.eng_modEng_same]; rfl
  have haccepted : decodeBuffer ((s.modEng e clearDoneErr).eng e) ((s.modEng e clearDoneErr).ownBuf e) = r := by
    rw [hbuf, State.eng_modEng_same]
    exact hr
  rw [exec_decode hidle, decodeEffect_of_cfgd (by rwa [State.eng_modEng_same]) haccepted, State.modEng_modEng]
  rfl

/-- Settles O21: the statement's clauses are the unconfigured engine and the three results of the frame decoder. -/
theorem decodeCommandPublishesOrClears : Obligations.DecodeCommandPublishesOrClears := by
  intro e s hidle x b r
  refine ⟨fun hcfgd => ?_, fun hcfgd hr => exec_decode_of_cfgd hidle hcfgd hr,
    fun hcfgd hr => exec_decode_of_cfgd hidle hcfgd hr, fun f hcfgd hr => exec_decode_of_cfgd hidle hcfgd hr⟩
  rw [exec_decode hidle, decodeEffect_of_not_cfgd (by rwa [State.eng_modEng_same]), State.modEng_modEng]
  rfl

/-! ## READ and TRANSACT (R106, R107) -/

theorem startEffect_of_cfgd {x : Engine} (h : x.cfgd = true) (m : Mode) :
    startEffect m x = beginAttempt 1 { x with attlog := ⟨0, 0, 0⟩, mode := m, busy := true } := if_pos h

theorem startEffect_of_not_cfgd {x : Engine} (h : x.cfgd = false) (m : Mode) :
    startEffect m x = finish .peripheralConfigError (clearResults { x with attempt := 0, attlog := ⟨0, 0, 0⟩ }) :=
  if_neg (by simp [h])

/-- R106, R107: an accepted READ or TRANSACT starts in its mode. -/
theorem exec_start {e : EngineId} {s : State} (h : (s.eng e).busy = false) :
    ∀ im ∈ [(Instr.read e, Mode.read), (.transact e, .transact)],
      exec im.1 s = .next (s.setEng e (startEffect im.2 (clearDoneErr (s.eng e)))) := by
  have haccept (m : Mode) : acceptCommand e (fun s => s.modEng e (startEffect m)) s =
      s.setEng e (startEffect m (clearDoneErr (s.eng e))) :=
    (acceptCommand_idle _ h).trans (State.modEng_modEng ..)
  simp only [List.forall_mem_cons, List.not_mem_nil, false_imp_iff, implies_true, and_true]
  exact ⟨congrArg Host.Outcome.next (haccept .read), congrArg Host.Outcome.next (haccept .transact)⟩

/-- Settles O22: the two commands start alike, and the claim decides whether attempt 1 begins. -/
theorem readAndTransactStartAttemptOne : Obligations.ReadAndTransactStartAttemptOne := by
  refine fun e s hidle => ⟨fun hcfgd im him => ?_, fun hcfgd i hi => ?_⟩
  · rw [exec_start hidle im him, startEffect_of_cfgd (x := clearDoneErr (s.eng e)) hcfgd]
    simp [beginAttempt, driveGpio, emit, clearResults, clearDoneErr, Gpio.inputPullUp]
  · obtain ⟨im, him, rfl⟩ : ∃ im ∈ [(Instr.read e, Mode.read), (.transact e, .transact)], im.1 = i :=
      List.mem_map.1 hi
    rw [exec_start hidle im him, startEffect_of_not_cfgd (x := clearDoneErr (s.eng e)) hcfgd]
    rfl

end Sys2Proof.Machine
end

section
/-! The registers as the host writes and reads them (R108-R112). -/

namespace Sys2Proof.Machine

/-! ## Writes -/

/-- R108: while BUSY a configuration write stores nothing and sets WERR. -/
theorem configWrite_busy {x : Engine} (h : x.busy = true) (r : RwReg) (d : Word) : configWrite r d x = flagWerr x :=
  if_pos h

/-- R108: while not BUSY a configuration write stores the masked word. -/
theorem configWrite_idle {x : Engine} (h : x.busy = false) (r : RwReg) (d : Word) :
    configWrite r d x = r.set x (d &&& r.mask) := by
  simp [configWrite, h]

/-- Settles O23: each write is the configuration write of its register, whose mask is written out or is all ones. -/
theorem configurationWritesStoreOrFlag : Obligations.ConfigurationWritesStoreOrFlag := by
  refine fun e d s => ⟨fun hidle => ?_, fun hbusy i hi => ?_⟩
  · have hstore (r : RwReg) : exec (writeOf e d r.reg) s = .next (s.setEng e (r.set (s.eng e) (d &&& r.mask))) := by
      rw [exec_writeOf_reg, State.modEng, configWrite_idle hidle]
    have hwhole (r : RwReg) (hr : r.mask = BitVec.allOnes 32) :
        exec (writeOf e d r.reg) s = .next (s.setEng e (r.set (s.eng e) d)) := by
      rw [hstore, hr, BitVec.and_allOnes]
    exact ⟨hstore .ctrl, hstore .cfg, hwhole .tSettle rfl, hwhole .tLow rfl, hwhole .tRel rfl, hwhole .tResp rfl,
      hwhole .tRxto rfl, hstore .tIdle, hwhole .tRetry rfl, hstore .bitThr⟩
  · obtain ⟨r, -, rfl⟩ : ∃ r ∈ RwReg.all, writeOf e d r.reg = i := List.mem_map.1 hi
    rw [exec_writeOf_reg, State.modEng, configWrite_busy hbusy]
    rfl

/-- R109: a flag whose bit is written as 1 is cleared, and one whose bit is written as 0 stays. -/
theorem statusClear_eq (d : Word) (x : Engine) : statusClear d x = { x with
    done := if d.getLsbD 1 then false else x.done
    cmderr := if d.getLsbD 12 then false else x.cmderr
    werr := if d.getLsbD 13 then false else x.werr } := by
  have hclear (flag bit : Bool) : (flag && !bit) = if bit then false else flag := by cases bit <;> simp
  simp only [statusClear, hclear]
  rfl

theorem exec_statusW1c (e : EngineId) (d : Word) (s : State) :
    exec (.statusW1c e d) s = .next (s.setEng e (statusClear d (s.eng e))) := rfl

/-- Settles O25: a STATUS write clears by its three bits, and irq asks for DONE. -/
theorem statusWriteClearsItsFlags : Obligations.StatusWriteClearsItsFlags := by
  refine fun e d s => ⟨?_, fun hd => ⟨_, exec_statusW1c e d s, ?_⟩⟩
  · rw [exec_statusW1c, statusClear_eq]
  · rw [State.eng_setEng_same, statusClear_eq, irq, if_pos hd, Bool.false_and]

/-- Settles O27: the write of a read-only register means no effect, and a STATUS write touches its three flags only. -/
theorem readOnlyWritesHaveNoEffect : Obligations.ReadOnlyWritesHaveNoEffect := by
  refine fun e k d s => ⟨?_, _, _, _, exec_statusW1c e d s⟩
  simp only [List.forall_mem_cons, List.not_mem_nil, false_imp_iff, implies_true, and_true]
  exact ⟨rfl, rfl, rfl, rfl, rfl, rfl, rfl, rfl⟩

/-- R110: while BUSY or unconfigured, a sample write only sets WERR. -/
theorem appendSample_flags {e : EngineId} {s : State} (h : (s.eng e).busy = true ∨ (s.eng e).cfgd = false) (d : Word) :
    appendSample e d s = s.modEng e flagWerr :=
  if_pos (by simpa using h)

/-- R110: otherwise the sample goes to the owned buffer. -/
theorem appendSample_pushes {e : EngineId} {s : State} (hidle : (s.eng e).busy = false)
    (hcfgd : (s.eng e).cfgd = true) (d : Word) :
    appendSample e d s = s.setBuf (s.eng e).chan
      (CapBuf.push s.params.capDepth (s.buf (s.eng e).chan) (sampleOfWord d)) :=
  if_neg (by simp [hidle, hcfgd])

/-- R163: below CAP_DEPTH there is an entry for the sample. -/
theorem CapBuf.push_of_lt {depth : Nat} {b : CapBuf} (h : b.count < depth) (q : Sample) :
    b.push depth q = { b with entries := b.entries.setIfInBounds b.count q, count := b.count + 1 } :=
  if_pos h

/-- R163: at CAP_DEPTH the sample is dropped. -/
theorem CapBuf.push_of_le {depth : Nat} {b : CapBuf} (h : depth ≤ b.count) (q : Sample) :
    b.push depth q = { b with ovf := true } :=
  if_neg (Nat.not_lt.2 h)

/-- Settles O26: the three clauses are the cases of the sample write and of the buffer's push. -/
theorem capWdataAppendsOneSample : Obligations.CapWdataAppendsOneSample := by
  intro e d s
  have hexec : exec (.capWdataWrite e d) s = .next (appendSample e d s) := rfl
  refine ⟨fun hflag => ?_, fun hidle hcfgd hroom => ?_, fun hidle hcfgd hfull => ?_⟩
  · rw [hexec, appendSample_flags hflag]
    rfl
  · rw [hexec, appendSample_pushes hidle hcfgd, CapBuf.push_of_lt hroom]
    rfl
  · rw [hexec, appendSample_pushes hidle hcfgd, CapBuf.push_of_le hfull]

/-! ## Reads -/

/-- R25: STATUS as R25 lists it, one field after the other. -/
theorem statusWord_eq (x : Engine) (b : CapBuf) : statusWord x b =
    0#9 ++ x.phase.code ++ 0#2 ++ x.attempt ++ 0#2 ++ BitVec.ofBool x.werr ++ BitVec.ofBool x.cmderr ++
      0#2 ++ BitVec.ofBool (x.cfgd && b.ovf) ++ BitVec.ofBool x.tneg ++ 0#1 ++ x.err.code ++
      BitVec.ofBool x.cfgd ++ BitVec.ofBool x.valid ++ BitVec.ofBool x.done ++ BitVec.ofBool x.busy := by
  simp only [statusWord, flagBit, ovfView, BitVec.append_assoc, BitVec.cast_eq]

/-- R26. -/
theorem AttLog.word_eq (a : AttLog) : a.word = 0#20 ++ a.a3 ++ a.a2 ++ a.a1 := by
  simp only [AttLog.word, BitVec.append_assoc, BitVec.cast_eq]

/-- R39. -/
theorem capCountView_eq (x : Engine) (b : CapBuf) :
    capCountView x b = if x.cfgd then 0#16 ++ BitVec.ofNat 16 b.count else 0 := by
  rw [capCountView, BitVec.setWidth_eq_append (by decide : 16 ≤ 32)]
  rfl

/-- R41. -/
theorem actView_eq (x : Engine) : actView x = if x.cfgd then 0#21 ++ x.chan ++ 0#2 ++ x.pin else 0 := by
  simp only [actView, BitVec.append_assoc, BitVec.cast_eq]

/-- R30: RES_CSUM as the host reads it. -/
theorem setWidth_csum (c : BitVec 8) : c.setWidth 32 = 0#24 ++ c := BitVec.setWidth_eq_append (by decide)

/-- R42. -/
theorem capDataView_eq (x : Engine) (b : CapBuf) (k : Fin 64) : capDataView x b k =
    if x.cfgd = true ∧ k.val < b.count then b.entries[k.val].low ++ b.entries[k.val].high else 0 := by
  simp [capDataView, wordOfSample]

/-- Settles O29: a read returns the register at its offset, and each row of the statement's table is that register. -/
theorem readsReturnTheRegisters : Obligations.ReadsReturnTheRegisters := by
  refine fun e s => ⟨fun rv hrv => ?_, fun k hk => ?_⟩
  · have hrow : (∀ k, rv.1 ≠ .capData k) ∧ regValue s e rv.1 = rv.2 := by
      revert rv
      simp only [List.forall_mem_cons, List.not_mem_nil, false_imp_iff, implies_true, and_true]
      exact ⟨⟨nofun, rfl⟩, ⟨nofun, rfl⟩, ⟨nofun, rfl⟩, ⟨nofun, statusWord_eq ..⟩, ⟨nofun, AttLog.word_eq _⟩,
        ⟨nofun, rfl⟩, ⟨nofun, rfl⟩, ⟨nofun, rfl⟩, ⟨nofun, setWidth_csum _⟩, ⟨nofun, rfl⟩, ⟨nofun, rfl⟩, ⟨nofun, rfl⟩,
        ⟨nofun, rfl⟩, ⟨nofun, rfl⟩, ⟨nofun, rfl⟩, ⟨nofun, rfl⟩, ⟨nofun, rfl⟩, ⟨nofun, capCountView_eq ..⟩,
        ⟨nofun, rfl⟩, ⟨nofun, actView_eq _⟩⟩
    obtain ⟨hfixed, hvalue⟩ := hrow
    rw [exec_regRead_offset s e fun k hk => absurd hk (hfixed k), hvalue]
  · rw [← capDataView_eq]
    exact exec_regRead_offset s e (r := .capData k) fun _ h => by cases h; exact hk

end Sys2Proof.Machine
end

section
/-! The phases that count ticks (R131-R134, R136, R222): one tick of such a phase counts, or ends it when its limit
register is reached. -/

namespace Sys2Proof.Machine

/-! ## One tick of a counted phase -/

/-- R131-R134, R222: what ends a counted phase when its limit is reached. -/
def Engine.timeUp (x : Engine) : Engine :=
  match x.phase with
  | .settle => { driveGpio Gpio.driveLow x with phase := .startLow, cnt := 0 }
  | .startLow => { driveGpio Gpio.inputPullUp x with phase := .relWait, cnt := 0 }
  | .relWait => { x with phase := .respWait, cnt := 0 }
  | .respWait => attemptEnd .noResponse x
  | .retryWait => beginAttempt (x.attempt + 1) x
  | .idle | .capture => x

/-- R131: SETTLE ends with the pin driven low. -/
theorem Engine.timeUp_of_settle {x : Engine} (h : x.phase = .settle) : x.timeUp = { x with
    gpio := Gpio.driveLow, phase := .startLow, cnt := 0, trace := x.trace ++ [.gpio Gpio.driveLow] } := by
  rw [timeUp, h]
  rfl

/-- R132: START_LOW ends with the pin an input with pull-up again. -/
theorem Engine.timeUp_of_startLow {x : Engine} (h : x.phase = .startLow) : x.timeUp = { x with
    gpio := Gpio.inputPullUp, phase := .relWait, cnt := 0, trace := x.trace ++ [.gpio Gpio.inputPullUp] } := by
  rw [timeUp, h]
  rfl

/-- R133: REL_WAIT ends without an event. -/
theorem Engine.timeUp_of_relWait {x : Engine} (h : x.phase = .relWait) :
    x.timeUp = { x with phase := .respWait, cnt := 0 } := by
  rw [timeUp, h]

/-- R134: RESP_WAIT ends the attempt. -/
theorem Engine.timeUp_of_respWait {x : Engine} (h : x.phase = .respWait) : x.timeUp = attemptEnd .noResponse x := by
  rw [timeUp, h]

/-- R136: with this tick counted, the limit is reached exactly when the exact count reaches it: the saturation of
`st.cnt` does not show. -/
theorem countReached_countTick_iff {limit : Word} {x : Engine} :
    countReached limit (countTick x) = true ↔ max1 limit ≤ x.cnt.toNat + 1 := by
  have hcnt := x.cnt.isLt
  have hlimit := limit.isLt
  simp only [countReached, countTick, sat32, max1, decide_eq_true_eq, BitVec.toNat_ofNat]
  omega

/-- R54: below the limit the count is the plain addition. -/
theorem countTick_of_lt {limit : Word} {x : Engine} (h : x.cnt.toNat + 1 < max1 limit) :
    countTick x = { x with cnt := x.cnt + 1 } := by
  have hcnt : sat32 (x.cnt.toNat + 1) = x.cnt + 1 := by
    have hlimit := limit.isLt
    have hone : (1 : Word).toNat = 1 := rfl
    apply BitVec.eq_of_toNat_eq
    simp only [sat32, max1, BitVec.toNat_ofNat, BitVec.toNat_add, hone] at h ⊢
    omega
  rw [countTick, hcnt]

/-- R131-R134, R222: a tick of a counted phase on which the line has no say: the tick is counted, and the phase ends
when its limit is reached. -/
theorem tickUnit_of_cntLimit {x : Engine} {limit : Word} (hlim : x.cntLimit = some limit) {line : Bool}
    (hline : x.phase = .respWait → line = false) (depth : Nat) (b : CapBuf) :
    tickUnit depth line x b =
      (if max1 limit ≤ x.cnt.toNat + 1 then (countTick x).timeUp else { x with cnt := x.cnt + 1 }, b) := by
  have htick : tickUnit depth line x b =
      (if countReached limit (countTick x) then (countTick x).timeUp else countTick x, b) := by
    have hphase : (countTick x).phase = x.phase := rfl
    cases h : x.phase with
    | idle | capture => simp [Engine.cntLimit, h] at hlim
    | settle | startLow | relWait | retryWait =>
      simp only [Engine.cntLimit, h, Option.some.injEq] at hlim
      subst hlim
      simp only [tickUnit, h, Engine.timeUp, hphase]
      rfl
    | respWait =>
      simp only [Engine.cntLimit, h, Option.some.injEq] at hlim
      subst hlim
      simp only [tickUnit, h, Engine.timeUp, hphase, hline h]
      exact (apply_ite (fun y => (y, b)) ..).symm
  rw [htick]
  by_cases h : max1 limit ≤ x.cnt.toNat + 1
  · rw [if_pos (countReached_countTick_iff.2 h), if_pos h]
  · rw [if_neg (mt countReached_countTick_iff.1 h), if_neg h, countTick_of_lt (Nat.lt_of_not_le h)]

/-- The engine with its phase's ticks counted to `n`. -/
def Engine.countedTo (x : Engine) (n : Nat) : Engine := { x with cnt := BitVec.ofNat 32 n }

@[simp] theorem lineOf_countedTo (pins : BitVec 64) (x : Engine) (n : Nat) :
    lineOf pins (x.countedTo n) = lineOf pins x := rfl

theorem Engine.countedTo_zero {x : Engine} (h : x.cnt = 0) : x.countedTo 0 = x := by
  rw [countedTo, ← BitVec.ofNat_eq_ofNat, ← h]

/-- R136: a tick of a counted phase counts one further, and ends the phase when that is its limit. -/
theorem tickUnit_countedTo {x : Engine} {limit : Word} (hlim : x.cntLimit = some limit) {line : Bool}
    (hline : x.phase = .respWait → line = false) {n : Nat} (hn : n + 1 ≤ max1 limit) (depth : Nat) (b : CapBuf) :
    (tickUnit depth line (x.countedTo n) b).1 =
      if n + 1 = max1 limit then (x.countedTo (n + 1)).timeUp else x.countedTo (n + 1) := by
  have hlimit : max1 limit ≤ 0xFFFFFFFF := by have := limit.isLt; unfold max1; omega
  have hcnt : (x.countedTo n).cnt.toNat = n := Nat.mod_eq_of_lt (by omega)
  have hcount : countTick (x.countedTo n) = x.countedTo (n + 1) := by
    rw [countTick, sat32, hcnt, Nat.min_eq_left (by omega)]
    rfl
  rw [tickUnit_of_cntLimit (x := x.countedTo n) hlim hline, hcnt, hcount]
  by_cases h : n + 1 = max1 limit
  · rw [if_pos h.ge, if_pos h]
  · rw [if_neg (by omega), if_neg h, ← hcount, countTick_of_lt (limit := limit) (by omega)]

/-- R142: a tick step that leaves the buffer as it was. -/
theorem tickEngine_of_tickUnit {pins : BitVec 64} {e : EngineId} {s : State} {y : Engine}
    (h : tickUnit s.params.capDepth (lineOf pins (s.eng e)) (s.eng e) (s.buf (s.eng e).chan) =
      (y, s.buf (s.eng e).chan)) : tickEngine pins e s = s.setEng e y := by
  simp only [tickEngine, h]
  exact State.setBuf_buf (s.setEng e y) _

/-- Settles O31: the step of an IDLE engine writes back what it read, and the tick of the block is such steps. -/
theorem idleTicksChangeNothing : Obligations.IdleTicksChangeNothing := by
  refine ⟨fun s pins e h => tickEngine_of_idle pins h, fun s pins hidle => ?_⟩
  have hticks (u : State) (hu : ∀ e, engineExists u.params e = true → (u.eng e).phase = .idle) :
      tickEngines pins u = u :=
    tickEngines_induct (P := (· = u)) pins
      (fun _ e he heq => by subst heq; exact tickEngine_of_idle pins (hu e he)) rfl
  unfold tickPulse
  dsimp only
  split
  · rfl
  · exact hticks _ hidle

/-- R131-R134, R222: the tick step of an engine in a counted phase, in the block. -/
theorem tickEngine_of_cntLimit {pins : BitVec 64} {e : EngineId} {s : State} {limit : Word}
    (hlim : (s.eng e).cntLimit = some limit) (hline : (s.eng e).phase = .respWait → lineOf pins (s.eng e) = false) :
    tickEngine pins e s = s.setEng e
      (if max1 limit ≤ (s.eng e).cnt.toNat + 1 then (countTick (s.eng e)).timeUp
       else { s.eng e with cnt := (s.eng e).cnt + 1 }) :=
  tickEngine_of_tickUnit (tickUnit_of_cntLimit hlim hline _ _)

/-- Settles O32: each of the three phases counts against its register, and the phase it gives way to is written out. -/
theorem startSequencePhases : Obligations.StartSequencePhases := by
  refine fun s pins e => ⟨fun h => ?_, fun h => ?_, fun h => ?_⟩
  · rw [tickEngine_of_cntLimit (limit := (s.eng e).tSettle) (by rw [Engine.cntLimit, h]) (by simp [h]),
      Engine.timeUp_of_settle (x := countTick (s.eng e)) h]
    rfl
  · rw [tickEngine_of_cntLimit (limit := (s.eng e).tLow) (by rw [Engine.cntLimit, h]) (by simp [h]),
      Engine.timeUp_of_startLow (x := countTick (s.eng e)) h]
    rfl
  · rw [tickEngine_of_cntLimit (limit := (s.eng e).tRel) (by rw [Engine.cntLimit, h]) (by simp [h]),
      Engine.timeUp_of_relWait (x := countTick (s.eng e)) h]
    rfl

/-- R134, R160: a high sample in RESP_WAIT opens the capture window. -/
theorem tickUnit_respWait_high {x : Engine} (h : x.phase = .respWait) (depth : Nat) (b : CapBuf) :
    tickUnit depth true x b = (captureStart x, b.empty) := by
  rw [tickUnit, h]
  rfl

/-- Settles O33: a high sample starts the capture, and low ones are counted like any other phase's ticks. -/
theorem responseWait : Obligations.ResponseWait := by
  refine fun s pins e h => ⟨fun hhigh => ?_, fun hlow => ?_⟩
  · have hline : lineOf pins (s.eng e) = true := hhigh
    rw [tickEngine, hline, tickUnit_respWait_high h]
    rfl
  · rw [tickEngine_of_cntLimit (limit := (s.eng e).tResp) (by rw [Engine.cntLimit, h]) fun _ => hlow,
      Engine.timeUp_of_respWait (x := countTick (s.eng e)) h]
    rfl

end Sys2Proof.Machine
end

section
/-! Runs of ticks: how long a phase that counts ticks lasts (R136), and from that the timeline of an attempt (R135). -/

namespace Sys2Proof.Machine

/-! ## Runs of ticks -/

@[simp] theorem tickRun_nil (s : State) : tickRun [] s = s := rfl

theorem tickRun_cons (pins : BitVec 64) (levels : List (BitVec 64)) (s : State) :
    tickRun (pins :: levels) s = tickRun levels (tickPulse pins s) := rfl

theorem tickRun_append (levels levels' : List (BitVec 64)) (s : State) :
    tickRun (levels ++ levels') s = tickRun levels' (tickRun levels s) := List.foldl_append

@[simp] theorem tickRun_params (levels : List (BitVec 64)) (s : State) : (tickRun levels s).params = s.params := by
  induction levels generalizing s with
  | nil => rfl
  | cons pins levels ih => rw [tickRun_cons, ih, tickPulse_params]

@[simp] theorem tickRun_rst (levels : List (BitVec 64)) (s : State) : (tickRun levels s).rst = s.rst := by
  induction levels generalizing s with
  | nil => rfl
  | cons pins levels ih => rw [tickRun_cons, ih, tickPulse_rst]

section Timed

/-! An existing engine `e` while `rst` is released. -/

variable {s : State} {e : EngineId} {levels : List (BitVec 64)} {limit : Word}

/-- The last tick of a run is a tick step of the engine from where the run before it ends. -/
theorem tickRun_concat_eng (hrst : s.rst = false) (he : engineExists s.params e = true) (levels : List (BitVec 64))
    (pins : BitVec 64) : ∃ b, (tickRun (levels ++ [pins]) s).eng e =
      (tickUnit s.params.capDepth (lineOf pins ((tickRun levels s).eng e)) ((tickRun levels s).eng e) b).1 := by
  obtain ⟨b, hb⟩ := tickPulse_eng pins (s := tickRun levels s) (by rwa [tickRun_rst]) (by rwa [tickRun_params])
  rw [tickRun_params] at hb
  exact ⟨b, by rw [tickRun_append]; exact hb⟩

/-- R136: fewer ticks than the limit of a counted phase are counted, and nothing else happens to the engine. -/
theorem tickRun_counts (hrst : s.rst = false) (he : engineExists s.params e = true)
    (hlim : (s.eng e).cntLimit = some limit) (hcnt : (s.eng e).cnt = 0)
    (hline : (s.eng e).phase = .respWait → ∀ pins ∈ levels, lineOf pins (s.eng e) = false)
    (hlen : levels.length < max1 limit) : (tickRun levels s).eng e = (s.eng e).countedTo levels.length := by
  induction levels using List.reverseRecOn with
  | nil => exact (Engine.countedTo_zero hcnt).symm
  | append_singleton levels pins ih =>
    rw [List.length_append, List.length_singleton] at hlen ⊢
    obtain ⟨b, hb⟩ := tickRun_concat_eng hrst he levels pins
    rw [ih (fun h q hq => hline h q (by simp [hq])) (by omega), lineOf_countedTo] at hb
    rw [hb, tickUnit_countedTo hlim (fun h => hline h pins (by simp)) hlen.le, if_neg hlen.ne]

/-- R136: the last of as many ticks as the limit of a counted phase ends it. -/
theorem tickRun_timeUp (hrst : s.rst = false) (he : engineExists s.params e = true)
    (hlim : (s.eng e).cntLimit = some limit) (hcnt : (s.eng e).cnt = 0)
    (hline : (s.eng e).phase = .respWait → ∀ pins ∈ levels, lineOf pins (s.eng e) = false)
    (hlen : levels.length = max1 limit) :
    (tickRun levels s).eng e = ((s.eng e).countedTo (max1 limit)).timeUp := by
  obtain rfl | ⟨levels, pins, rfl⟩ := List.eq_nil_or_concat' levels
  · exact absurd hlen (max1_pos limit).ne
  · rw [List.length_append, List.length_singleton] at hlen
    obtain ⟨b, hb⟩ := tickRun_concat_eng hrst he levels pins
    rw [tickRun_counts (levels := levels) hrst he hlim hcnt (fun h q hq => hline h q (by simp [hq])) (by omega),
      lineOf_countedTo] at hb
    rw [hb, tickUnit_countedTo hlim (fun h => hline h pins (by simp)) hlen.le, if_pos hlen, hlen]

/-! ### A phase that begins after the first `k` ticks of a run -/

variable {k : Nat} {y : Engine}

theorem tickRun_drop_take (levels : List (BitVec 64)) (k : Nat) (s : State) :
    tickRun (levels.drop k) (tickRun (levels.take k) s) = tickRun levels s := by
  rw [← tickRun_append, List.take_append_drop]

/-- R136: fewer further ticks than the limit. -/
theorem tickRun_counts_after (hrst : s.rst = false) (he : engineExists s.params e = true)
    (hy : (tickRun (levels.take k) s).eng e = y) (hlim : y.cntLimit = some limit) (hcnt : y.cnt = 0)
    (hline : y.phase = .respWait → ∀ pins ∈ levels.drop k, lineOf pins y = false)
    (hlen : levels.length - k < max1 limit) : (tickRun levels s).eng e = y.countedTo (levels.length - k) := by
  subst hy
  rw [← tickRun_drop_take levels k s, ← List.length_drop]
  exact tickRun_counts (by rwa [tickRun_rst]) (by rwa [tickRun_params]) hlim hcnt hline (by rwa [List.length_drop])

/-- R136: as many further ticks as the limit. -/
theorem tickRun_timeUp_after (hrst : s.rst = false) (he : engineExists s.params e = true)
    (hy : (tickRun (levels.take k) s).eng e = y) (hlim : y.cntLimit = some limit) (hcnt : y.cnt = 0)
    (hline : y.phase = .respWait → ∀ pins ∈ levels.drop k, lineOf pins y = false)
    (hlen : levels.length = k + max1 limit) : (tickRun levels s).eng e = (y.countedTo (max1 limit)).timeUp := by
  subst hy
  rw [← tickRun_drop_take levels k s]
  exact tickRun_timeUp (by rwa [tickRun_rst]) (by rwa [tickRun_params]) hlim hcnt hline
    (by rw [List.length_drop]; omega)

end Timed

/-! ## The timeline of an attempt (R135) -/

/-- R131: an engine that began its attempt as `x`, as START_LOW begins. -/
def Engine.inStartLow (x : Engine) : Engine :=
  { x with
    gpio := Gpio.driveLow, phase := .startLow, cnt := 0
    trace := x.trace ++ [.gpio Gpio.driveLow] }

/-- R132: an engine that began its attempt as `x`, as REL_WAIT begins. -/
def Engine.inRelWait (x : Engine) : Engine :=
  { x with
    gpio := Gpio.inputPullUp, phase := .relWait, cnt := 0
    trace := x.trace ++ [.gpio Gpio.driveLow, .gpio Gpio.inputPullUp] }

/-- R133: an engine that began its attempt as `x`, as RESP_WAIT begins. -/
def Engine.inRespWait (x : Engine) : Engine := { x.inRelWait with phase := .respWait }

/-- R134, R221: how an attempt ends with NoResponse, and its events since it began. -/
theorem attemptEnd_inRespWait (x : Engine) (n : Nat) :
    let y := attemptEnd .noResponse (x.inRespWait.countedTo n)
    let events : List Event :=
      [.gpio ⟨true, false, true⟩, .gpio ⟨false, false, true⟩, .attEnd x.attempt .noResponse]
    (y.phase = .idle ∨ y.phase = .retryWait) ∧ (x.trace ++ events) <+: y.trace := by
  obtain ⟨hend, -, -, -, -, htrace⟩ := attemptEnd_spec .noResponse (x.inRespWait.countedTo n)
  refine ⟨hend, ?_⟩
  rwa [Engine.countedTo, Engine.inRespWait, Engine.inRelWait, List.append_assoc] at htrace

section Timeline

variable {s : State} {e : EngineId} {levels : List (BitVec 64)} (hrst : s.rst = false)
  (he : engineExists s.params e = true) (hphase : (s.eng e).phase = .settle) (hcnt : (s.eng e).cnt = 0)

include hrst he hphase hcnt

theorem tickRun_inStartLow (hlen : levels.length = max1 (s.eng e).tSettle) :
    (tickRun levels s).eng e = (s.eng e).inStartLow := by
  have hlim : (s.eng e).cntLimit = some (s.eng e).tSettle := by rw [Engine.cntLimit, hphase]
  rw [tickRun_timeUp hrst he hlim hcnt (by simp [hphase]) hlen, Engine.timeUp_of_settle (by exact hphase)]
  rfl

theorem tickRun_inRelWait (hlen : levels.length = max1 (s.eng e).tSettle + max1 (s.eng e).tLow) :
    (tickRun levels s).eng e = (s.eng e).inRelWait := by
  have hstart := tickRun_inStartLow hrst he hphase hcnt (levels := levels.take (max1 (s.eng e).tSettle)) (by
    rw [List.length_take]
    omega)
  rw [tickRun_timeUp_after hrst he hstart rfl rfl nofun hlen, Engine.timeUp_of_startLow rfl]
  simp [Engine.inRelWait, Engine.inStartLow, Engine.countedTo]

theorem tickRun_inRespWait
    (hlen : levels.length = max1 (s.eng e).tSettle + max1 (s.eng e).tLow + max1 (s.eng e).tRel) :
    (tickRun levels s).eng e = (s.eng e).inRespWait := by
  have hstart := tickRun_inRelWait hrst he hphase hcnt
    (levels := levels.take (max1 (s.eng e).tSettle + max1 (s.eng e).tLow)) (by rw [List.length_take]; omega)
  rw [tickRun_timeUp_after hrst he hstart rfl rfl nofun hlen, Engine.timeUp_of_relWait rfl]
  rfl

/-- R134, R160: a run that ends in the first high sample of RESP_WAIT, at the latest at its bound, ends in the capture
start. -/
theorem tickRun_captureStart {k : Nat} (hk : k = max1 (s.eng e).tSettle + max1 (s.eng e).tLow + max1 (s.eng e).tRel)
    (hafter : k < levels.length) (hbound : levels.length ≤ k + max1 (s.eng e).tResp)
    (hlow : ∀ pins ∈ (levels.drop k).dropLast, lineOf pins (s.eng e) = false)
    (hhigh : ∀ pins, levels.getLast? = some pins → lineOf pins (s.eng e) = true) :
    ∃ n, (tickRun levels s).eng e = captureStart ((s.eng e).inRespWait.countedTo n) := by
  obtain rfl | ⟨levels, pins, rfl⟩ := List.eq_nil_or_concat' levels
  · exact absurd hafter (Nat.not_lt_zero k)
  · rw [List.length_append, List.length_singleton] at hafter hbound
    rw [List.drop_append_of_le_length (by omega), List.dropLast_concat] at hlow
    have hwait := tickRun_inRespWait hrst he hphase hcnt (levels := levels.take k) (by rw [List.length_take]; omega)
    obtain ⟨b, hb⟩ := tickRun_concat_eng hrst he levels pins
    have hline : lineOf pins (s.eng e).inRespWait = true := hhigh pins List.getLast?_concat
    rw [tickRun_counts_after hrst he hwait (limit := (s.eng e).tResp) rfl rfl (fun _ => hlow) (by omega),
      lineOf_countedTo, hline, tickUnit_respWait_high rfl] at hb
    exact ⟨_, hb⟩

/-- R134: a run that ends in the last of max1(T_RESP) low samples ends in the attempt's end with NoResponse. -/
theorem tickRun_noResponse {k : Nat} (hk : k = max1 (s.eng e).tSettle + max1 (s.eng e).tLow + max1 (s.eng e).tRel)
    (hlen : levels.length = k + max1 (s.eng e).tResp)
    (hlow : ∀ pins ∈ levels.drop k, lineOf pins (s.eng e) = false) :
    (tickRun levels s).eng e =
      attemptEnd .noResponse ((s.eng e).inRespWait.countedTo (max1 (s.eng e).tResp)) := by
  have hwait := tickRun_inRespWait hrst he hphase hcnt (levels := levels.take k) (by rw [List.length_take]; omega)
  rw [tickRun_timeUp_after hrst he hwait rfl rfl (fun _ => hlow) hlen, Engine.timeUp_of_respWait rfl]
  rfl

end Timeline

/-- Settles O46: each clause is a run that ends within a counted phase, in the capture start, or in the end of the
attempt. -/
theorem attemptTimeline : Obligations.AttemptTimeline := by
  intro s e levels x S L R P n u hrst he hphase hcnt
  have htake {k : Nat} (h : k ≤ n) : (levels.take k).length = k := List.length_take_of_le h
  refine ⟨fun hn => ?_, fun hS hn => ?_, fun hL hn => ?_, fun hR hn hlow => ?_, fun hR hn hlow hhigh => ?_,
    fun hn hlow => ?_⟩
  · have hu : u = x.countedTo n :=
      tickRun_counts hrst he (limit := x.tSettle) (by rw [Engine.cntLimit, hphase]) hcnt (by simp [x, hphase]) hn
    rw [hu]
    exact hphase
  · have hu : u = x.inStartLow.countedTo (n - S) :=
      tickRun_counts_after hrst he (tickRun_inStartLow hrst he hphase hcnt (htake hS)) (limit := x.tLow) rfl rfl
        nofun (Nat.sub_lt_left_of_lt_add hS hn)
    rw [hu]
    exact ⟨rfl, rfl⟩
  · have hu : u = x.inRelWait.countedTo (n - (S + L)) :=
      tickRun_counts_after hrst he (tickRun_inRelWait hrst he hphase hcnt (htake hL)) (limit := x.tRel) rfl rfl
        nofun (Nat.sub_lt_left_of_lt_add hL hn)
    rw [hu]
    exact ⟨rfl, rfl⟩
  · have hu : u = x.inRespWait.countedTo (n - (S + L + R)) :=
      tickRun_counts_after hrst he (tickRun_inRespWait hrst he hphase hcnt (htake hR)) (limit := x.tResp) rfl rfl
        (fun _ => hlow) (Nat.sub_lt_left_of_lt_add hR hn)
    rw [hu]
    rfl
  · obtain ⟨m, hu⟩ : ∃ m, u = captureStart (x.inRespWait.countedTo m) :=
      tickRun_captureStart hrst he hphase hcnt rfl hR hn hlow hhigh
    rw [hu]
    exact ⟨rfl, rfl, rfl⟩
  · have hu : u = attemptEnd .noResponse (x.inRespWait.countedTo P) :=
      tickRun_noResponse hrst he hphase hcnt rfl hn hlow
    rw [hu]
    exact attemptEnd_inRespWait x P

end Sys2Proof.Machine
end

section
/-! What an operation cannot touch (R137, R251, R253): it writes its own engine only, moves no buffer that another
engine owns, and of a BUSY engine writes three flags only. -/

namespace Sys2Proof.Machine

/-! ## An operation stays within its engine (R251) -/

/-- Every operation that completes addresses an engine. -/
theorem engineOf_of_exec {i : Instr} {s t : State} (h : exec i s = .next t) : ∃ e, engineOf i = some e := by
  cases i with
  | subwordOrMisaligned a => exact absurd h nofun
  | _ => exact ⟨_, rfl⟩

theorem SameOutside.refl (e : EngineId) (s : State) : SameOutside e s s :=
  ⟨rfl, rfl, rfl, rfl, rfl, fun _ _ => rfl⟩

theorem sameOutside_setBuf (e : EngineId) (s : State) (c : BitVec 3) (b : CapBuf) : SameOutside e s (s.setBuf c b) :=
  .refl e s

/-- R110. -/
theorem sameOutside_appendSample (e : EngineId) (d : Word) (s : State) : SameOutside e s (appendSample e d s) := by
  unfold appendSample
  dsimp only
  split
  · exact sameOutside_modEng s e _
  · exact sameOutside_setBuf e s _ _

/-- R102. -/
theorem sameOutside_configEffect (e : EngineId) (s : State) : SameOutside e s (configEffect e s) := by
  have hdrop := (sameOutside_modEng s e clearResults).trans (sameOutside_dropClaim e _)
  unfold configEffect
  dsimp only
  split
  · exact (hdrop.trans (sameOutside_takeClaim e _ _ _)).trans (sameOutside_modEng _ e _)
  · exact hdrop.trans (sameOutside_modEng _ e _)

/-- R103. -/
theorem sameOutside_unconfigEffect (e : EngineId) (s : State) : SameOutside e s (unconfigEffect e s) := by
  unfold unconfigEffect
  exact ((sameOutside_modEng s e clearResults).trans (sameOutside_dropClaim e _)).trans (sameOutside_modEng _ e _)

/-- R104. -/
theorem sameOutside_capclrEffect (e : EngineId) (s : State) : SameOutside e s (capclrEffect e s) := by
  unfold capclrEffect
  dsimp only
  split
  · exact (sameOutside_setBuf e s _ _).trans (sameOutside_modEng _ e _)
  · exact sameOutside_modEng s e _

/-- R105. -/
theorem sameOutside_decodeEffect (e : EngineId) (s : State) : SameOutside e s (decodeEffect e s) := by
  unfold decodeEffect
  dsimp only
  split <;> exact (sameOutside_modEng s e _).trans (sameOutside_modEng _ e _)

/-- R100. -/
theorem sameOutside_acceptCommand {e : EngineId} {effect : State → State} (heffect : ∀ u, SameOutside e u (effect u))
    (s : State) : SameOutside e s (acceptCommand e effect s) := by
  unfold acceptCommand
  split
  · exact sameOutside_modEng s e _
  · exact (sameOutside_modEng s e _).trans (heffect _)

/-- R251: but for the word that a read returns, an operation changes nothing outside its engine, the buffers and the
owner tables. -/
theorem sameOutside_exec {i : Instr} {s t : State} {e : EngineId} (he : engineOf i = some e) (h : exec i s = .next t) :
    ∃ v, SameOutside e { s with rdata := v } t := by
  obtain rfl | ⟨v, rfl⟩ | ⟨f, hf, ht⟩ := exec_next_cases h
  · exact ⟨_, .refl e t⟩
  · exact ⟨v, .refl e _⟩
  · obtain rfl : e = f := Option.some.inj (he.symm.trans hf)
    refine ⟨s.rdata, ?_⟩
    obtain rfl | ⟨r, d, rfl⟩ | ⟨d, rfl⟩ | ⟨d, rfl⟩ | ⟨m, rfl⟩ | rfl | rfl | rfl | rfl := ht
    · exact sameOutside_modEng s e _
    · exact sameOutside_modEng s e _
    · exact sameOutside_modEng s e _
    · exact sameOutside_appendSample e d s
    · exact sameOutside_acceptCommand (fun u => sameOutside_modEng u e _) s
    · exact sameOutside_acceptCommand (sameOutside_decodeEffect e) s
    · exact sameOutside_acceptCommand (sameOutside_configEffect e) s
    · exact sameOutside_acceptCommand (sameOutside_unconfigEffect e) s
    · exact sameOutside_acceptCommand (sameOutside_capclrEffect e) s

/-! ## The buffers that an operation can write (R253) -/

/-- Channel `d` is free or engine `e`'s own, so that an operation of `e` may write its buffer. -/
def MayWriteBuf (s : State) (e : EngineId) (d : BitVec 3) : Prop :=
  s.chanOwnerOf d = none ∨ ((s.eng e).cfgd = true ∧ (s.eng e).chan = d)

/-- R50: no engine may write the buffer of another one that is configured. -/
theorem OwnershipExact.not_mayWriteBuf {s : State} (hown : OwnershipExact s) {e f : EngineId} (hfe : f ≠ e)
    (hf : (s.eng f).cfgd = true) : ¬ MayWriteBuf s e (s.eng f).chan := by
  have hchan : s.chanOwnerOf (s.eng f).chan = some f := (hown.1 f _).2 ⟨hf, rfl⟩
  rintro (hfree | hclaim)
  · simp [hchan] at hfree
  · exact hfe (Option.some.inj (hchan.symm.trans ((hown.1 e _).2 hclaim)))

/-- R102: after the old claim is dropped, a channel that nobody owns is one that the engine may write. -/
theorem mayWriteBuf_of_dropClaim {s : State} {e : EngineId} {c : BitVec 3}
    (h : (dropClaim e s).chanOwnerOf c = none) : MayWriteBuf s e c := by
  obtain ⟨-, -, hchan, -⟩ := dropClaim_spec e s
  rw [hchan] at h
  split at h
  · next hclaim => exact .inr hclaim
  · exact .inl h

/-- No buffer is written that engine `e` may not write. -/
def WritesOwnBufs (e : EngineId) (s t : State) : Prop := ∀ d, ¬ MayWriteBuf s e d → t.buf d = s.buf d

theorem writesOwnBufs_modEng (e : EngineId) (s : State) (g : Engine → Engine) : WritesOwnBufs e s (s.modEng e g) :=
  fun _ _ => rfl

theorem writesOwnBufs_setBuf {e : EngineId} {s : State} (hc : (s.eng e).cfgd = true) (b : CapBuf) :
    WritesOwnBufs e s (s.setBuf (s.eng e).chan b) :=
  fun _ hd => State.buf_setBuf_ne s b fun heq => hd (.inr ⟨hc, heq.symm⟩)

/-- R110. -/
theorem writesOwnBufs_appendSample (e : EngineId) (w : Word) (s : State) : WritesOwnBufs e s (appendSample e w s) := by
  unfold appendSample
  dsimp only
  split
  · exact writesOwnBufs_modEng e s _
  · next h =>
    have hcfgd : (s.eng e).cfgd = true := by simp at h; exact h.2
    exact writesOwnBufs_setBuf hcfgd _

/-- R102: CONFIG empties the buffer that it claims. -/
theorem writesOwnBufs_configEffect (e : EngineId) (s : State) : WritesOwnBufs e s (configEffect e s) := by
  obtain ⟨-, -, -, -, hdrop, -⟩ := dropClaim_spec e (s.modEng e clearResults)
  unfold configEffect
  dsimp only
  generalize cfgPin ((dropClaim e (s.modEng e clearResults)).eng e).cfg = p
  generalize cfgChan ((dropClaim e (s.modEng e clearResults)).eng e).cfg = c
  split
  · next hallowed =>
    intro d hd
    simp only [claimAllowed, Bool.and_eq_true, decide_eq_true_eq] at hallowed
    obtain ⟨⟨-, hfree⟩, -⟩ := hallowed
    have hc : MayWriteBuf s e c := by
      simpa [MayWriteBuf, clearResults] using mayWriteBuf_of_dropClaim hfree
    obtain ⟨-, -, -, -, htake, -⟩ := takeClaim_spec e p c (dropClaim e (s.modEng e clearResults))
    rw [State.buf_modEng, htake, if_neg fun heq : c = d => hd (heq ▸ hc), hdrop, State.buf_modEng]
  · exact fun d _ => hdrop d

/-- R103. -/
theorem writesOwnBufs_unconfigEffect (e : EngineId) (s : State) : WritesOwnBufs e s (unconfigEffect e s) := by
  obtain ⟨-, -, -, -, hdrop, -⟩ := dropClaim_spec e (s.modEng e clearResults)
  exact fun d _ => hdrop d

/-- R104. -/
theorem writesOwnBufs_capclrEffect (e : EngineId) (s : State) : WritesOwnBufs e s (capclrEffect e s) := by
  unfold capclrEffect
  dsimp only
  split
  · next hcfgd => exact writesOwnBufs_setBuf hcfgd _
  · exact writesOwnBufs_modEng e s _

/-- R105: DECODE only reads the buffer. -/
theorem writesOwnBufs_decodeEffect (e : EngineId) (s : State) : WritesOwnBufs e s (decodeEffect e s) := by
  unfold decodeEffect
  dsimp only
  split <;> exact fun _ _ => rfl

/-- R100. -/
theorem writesOwnBufs_acceptCommand {e : EngineId} {effect : State → State}
    (heffect : ∀ u, WritesOwnBufs e u (effect u)) (s : State) : WritesOwnBufs e s (acceptCommand e effect s) := by
  unfold acceptCommand
  split
  · exact writesOwnBufs_modEng e s _
  · exact fun d hd => heffect (s.modEng e clearDoneErr) d (by simpa [MayWriteBuf, clearDoneErr] using hd)

/-- R253: an operation writes no buffer but those that its engine may write. -/
theorem writesOwnBufs_exec {i : Instr} {s t : State} {e : EngineId} (he : engineOf i = some e)
    (h : exec i s = .next t) : WritesOwnBufs e s t := by
  obtain rfl | ⟨v, rfl⟩ | ⟨f, hf, ht⟩ := exec_next_cases h
  · exact fun _ _ => rfl
  · exact fun _ _ => rfl
  · obtain rfl : e = f := Option.some.inj (he.symm.trans hf)
    obtain rfl | ⟨r, d, rfl⟩ | ⟨d, rfl⟩ | ⟨d, rfl⟩ | ⟨m, rfl⟩ | rfl | rfl | rfl | rfl := ht
    · exact writesOwnBufs_modEng e s _
    · exact writesOwnBufs_modEng e s _
    · exact writesOwnBufs_modEng e s _
    · exact writesOwnBufs_appendSample e d s
    · exact writesOwnBufs_acceptCommand (fun u => writesOwnBufs_modEng e u _) s
    · exact writesOwnBufs_acceptCommand (writesOwnBufs_decodeEffect e) s
    · exact writesOwnBufs_acceptCommand (writesOwnBufs_configEffect e) s
    · exact writesOwnBufs_acceptCommand (writesOwnBufs_unconfigEffect e) s
    · exact writesOwnBufs_acceptCommand (writesOwnBufs_capclrEffect e) s

/-! ## The owner tables after an operation (R50) -/

/-- R100. -/
theorem OwnershipExact.acceptCommand {s : State} (hs : OwnershipExact s) {e : EngineId} {effect : State → State}
    (heffect : ∀ u, OwnershipExact u → OwnershipExact (effect u)) : OwnershipExact (acceptCommand e effect s) := by
  unfold Machine.acceptCommand
  split
  · exact hs.of_sameClaims (sameClaims_modEng s e _ fun _ => by rfl)
  · exact heffect _ (hs.of_sameClaims (sameClaims_modEng s e clearDoneErr fun _ => rfl))

/-- R50: every operation keeps the owner tables exact. -/
theorem OwnershipExact.exec {i : Instr} {s t : State} (hs : OwnershipExact s) (h : exec i s = .next t) :
    OwnershipExact t := by
  obtain rfl | ⟨v, rfl⟩ | ⟨e, -, ht⟩ := exec_next_cases h
  · exact hs
  · exact hs
  · obtain rfl | ⟨r, d, rfl⟩ | ⟨d, rfl⟩ | ⟨d, rfl⟩ | ⟨m, rfl⟩ | rfl | rfl | rfl | rfl := ht
    · exact hs.of_sameClaims (sameClaims_modEng s e _ fun _ => by rfl)
    · exact hs.of_sameClaims (sameClaims_modEng s e _ (claim_configWrite r d))
    · exact hs.of_sameClaims (sameClaims_modEng s e _ fun _ => by rfl)
    · exact hs.of_sameClaims (sameClaims_appendSample e d s)
    · exact hs.of_sameClaims (sameClaims_acceptStart e m s)
    · exact hs.of_sameClaims (sameClaims_acceptCommand (sameClaims_decodeEffect e) s)
    · exact hs.acceptCommand fun _ hu => hu.configEffect e
    · exact hs.acceptCommand fun _ hu => hu.unconfigEffect e
    · exact hs.of_sameClaims (sameClaims_acceptCommand (sameClaims_capclrEffect e) s)

/-! ## Operations while BUSY (R137) -/

/-- R100, R108-R110: an operation of a BUSY engine writes that engine's flags CMDERR, WERR and DONE at most, and the
word that a read returns. -/
theorem exec_of_busy {i : Instr} {s t : State} {e : EngineId} (he : engineOf i = some e) (hbusy : (s.eng e).busy = true)
    (h : exec i s = .next t) : ∃ v ce we dn,
      t = State.setEng { s with rdata := v } e { s.eng e with cmderr := ce, werr := we, done := dn } := by
  have hsame (v : Word) : { s with rdata := v } = State.setEng { s with rdata := v } e (s.eng e) :=
    (State.setEng_eng { s with rdata := v } e).symm
  obtain rfl | ⟨v, rfl⟩ | ⟨f, hf, ht⟩ := exec_next_cases h
  · exact ⟨_, _, _, _, hsame _⟩
  · exact ⟨_, _, _, _, hsame _⟩
  · obtain rfl : e = f := Option.some.inj (he.symm.trans hf)
    obtain rfl | ⟨r, d, rfl⟩ | ⟨d, rfl⟩ | ⟨d, rfl⟩ | ⟨m, rfl⟩ | rfl | rfl | rfl | rfl := ht
    · exact ⟨_, _, _, _, rfl⟩
    · rw [State.modEng, configWrite_busy hbusy]
      exact ⟨_, _, _, _, rfl⟩
    · exact ⟨_, _, _, _, rfl⟩
    · rw [appendSample_flags (.inl hbusy)]
      exact ⟨_, _, _, _, rfl⟩
    all_goals
      rw [acceptCommand_busy _ hbusy]
      exact ⟨_, _, _, _, rfl⟩

/-- Settles O51: an operation of the BUSY engine itself writes flags only; one of another engine leaves its state alone,
and may not write its buffer because the owner tables are exact. -/
theorem attemptsAreNonPreemptible : Obligations.AttemptsAreNonPreemptible := by
  intro i s t e hown hphase hbusy h
  have hcfgd : (s.eng e).cfgd = true := hphase.2 (hphase.1.1 hbusy)
  obtain ⟨f, hf⟩ := engineOf_of_exec h
  by_cases hef : e = f
  · subst hef
    obtain ⟨v, ce, we, dn, rfl⟩ := exec_of_busy hf hbusy h
    exact ⟨⟨ce, we, dn, State.eng_setEng_same ..⟩, rfl, (hown.1 e _).2 ⟨hcfgd, rfl⟩, (hown.2 e _).2 ⟨hcfgd, rfl⟩,
      rfl, rfl⟩
  · obtain ⟨v, hparams, -, hrst, -, -, hother⟩ := sameOutside_exec hf h
    have heng : t.eng e = s.eng e := hother e hef
    have hown' : OwnershipExact t := hown.exec h
    exact ⟨⟨_, _, _, heng⟩, writesOwnBufs_exec hf h _ (hown.not_mayWriteBuf hef hcfgd),
      heng ▸ (hown'.1 e _).2 ⟨heng ▸ hcfgd, rfl⟩, heng ▸ (hown'.2 e _).2 ⟨heng ▸ hcfgd, rfl⟩, hparams, hrst⟩

end Sys2Proof.Machine
end

section
/-! One CAPTURE tick (R161-R165): what the sample leaves of the engine and the buffer, and how the window closes. -/

namespace Sys2Proof.Machine

/-! ## What a capture writes in its engine -/

/-- The two engines differ at most in the capture's own hidden state. -/
def Engine.SameButCapture (x y : Engine) : Prop :=
  ∃ level len seen pend high rx, y =
    { x with curLevel := level, curLen := len, edgeSeen := seen, pendValid := pend, pendHigh := high, rx := rx }

theorem Engine.SameButCapture.refl (x : Engine) : x.SameButCapture x := ⟨_, _, _, _, _, _, rfl⟩

theorem Engine.SameButCapture.trans {x y z : Engine} (h : x.SameButCapture y) (h' : y.SameButCapture z) :
    x.SameButCapture z := by
  obtain ⟨_, _, _, _, _, _, rfl⟩ := h
  exact h'

theorem Engine.SameButCapture.phase_eq {x y : Engine} (h : x.SameButCapture y) : y.phase = x.phase := by
  obtain ⟨_, _, _, _, _, _, rfl⟩ := h
  rfl

theorem Engine.SameButCapture.tIdle_eq {x y : Engine} (h : x.SameButCapture y) : y.tIdle = x.tIdle := by
  obtain ⟨_, _, _, _, _, _, rfl⟩ := h
  rfl

theorem Engine.SameButCapture.tRxto_eq {x y : Engine} (h : x.SameButCapture y) : y.tRxto = x.tRxto := by
  obtain ⟨_, _, _, _, _, _, rfl⟩ := h
  rfl

/-- R165: what a decode sees of its engine, the capture does not write. -/
theorem Engine.SameButCapture.decodeBuffer_eq {x y : Engine} (h : x.SameButCapture y) (b : CapBuf) :
    decodeBuffer y b = decodeFrame (b.entries.toList.take b.count) (x.cfg.getLsbD 16) (x.cfg.getLsbD 17)
      (x.bitThr.extractLsb' 0 16) := by
  obtain ⟨_, _, _, _, _, _, rfl⟩ := h
  rfl

/-! ## The sample of a CAPTURE tick (R161, R162, R163) -/

/-- R161: the engine and its buffer after the sample of a CAPTURE tick, before the tick looks at the window's end. -/
def captureNext (depth : Nat) (line : Bool) (x : Engine) (b : CapBuf) : Engine × CapBuf :=
  (captureTick depth line x b, (captureSample depth line x b).2)

theorem sameButCapture_captureNext (depth : Nat) (line : Bool) (x : Engine) (b : CapBuf) :
    x.SameButCapture (captureNext depth line x b).1 := captureTick_frame depth line x b

/-- R161: a sample of the current level extends the phase. -/
theorem captureNext_same {line : Bool} {x : Engine} (h : line = x.curLevel) (depth : Nat) (b : CapBuf) :
    captureNext depth line x b =
      ({ x with curLen := sat16 (x.curLen.toNat + 1), rx := sat32 (x.rx.toNat + 1) }, b) := by
  simp [captureNext, captureTick, captureSample, h]

/-- R162: a falling edge keeps the high duration. -/
theorem captureNext_falling {x : Engine} (h : x.curLevel = true) (depth : Nat) (b : CapBuf) :
    captureNext depth false x b =
      ({ x with curLevel := false, curLen := 1, edgeSeen := true, pendValid := true, pendHigh := x.curLen,
                rx := sat32 (x.rx.toNat + 1) }, b) := by
  simp [captureNext, captureTick, captureSample, closePhase, h]

/-- R162, R163: a rising edge stores the pair, if a high is pending. -/
theorem captureNext_rising {x : Engine} (h : x.curLevel = false) (depth : Nat) (b : CapBuf) :
    captureNext depth true x b =
      ({ x with curLevel := true, curLen := 1, edgeSeen := true, pendValid := false, rx := sat32 (x.rx.toNat + 1) },
       if x.pendValid then b.push depth ⟨x.pendHigh, x.curLen⟩ else b) := by
  cases hp : x.pendValid <;> simp [captureNext, captureTick, captureSample, closePhase, h, hp]

/-! ## The end of the window (R164, R165) -/

/-- R164: complete, in the words of the registers. -/
theorem captureComplete_iff {x : Engine} :
    captureComplete x = true ↔ x.edgeSeen = true ∧ max (low16 x.tIdle).toNat 1 ≤ x.curLen.toNat := by
  have hidle : (low16 x.tIdle).toNat % 2 ^ 32 = (low16 x.tIdle).toNat := Nat.mod_eq_of_lt (by omega)
  rw [captureComplete, max1, BitVec.toNat_setWidth, hidle, Bool.and_eq_true, decide_eq_true_eq]

theorem captureExpired_iff {x : Engine} : captureExpired x = true ↔ max1 x.tRxto ≤ x.rx.toNat := by
  simp [captureExpired]

section

variable {depth : Nat} {line : Bool} {x y : Engine} {b b' : CapBuf} (hphase : x.phase = .capture)
  (hnext : captureNext depth line x b = (y, b'))

include hphase hnext

/-- R164: the level has held, and the window completes. -/
theorem tickUnit_complete (hc : captureComplete y = true) :
    tickUnit depth line x b = (captureExit .complete y b', b') := by
  obtain ⟨rfl, rfl⟩ := Prod.mk.inj hnext
  rw [tickUnit, hphase]
  exact if_pos hc

/-- R164: the window's time is up, and it has not completed. -/
theorem tickUnit_expired (hc : ¬ captureComplete y = true) (ht : captureExpired y = true) :
    tickUnit depth line x b = (captureExit .timeout y b', b') := by
  obtain ⟨rfl, rfl⟩ := Prod.mk.inj hnext
  rw [tickUnit, hphase]
  exact (if_neg hc).trans (if_pos ht)

/-- R161: the window stays open. -/
theorem tickUnit_captures (hc : ¬ captureComplete y = true) (ht : ¬ captureExpired y = true) :
    tickUnit depth line x b = (y, b') := by
  obtain ⟨rfl, rfl⟩ := Prod.mk.inj hnext
  rw [tickUnit, hphase]
  exact (if_neg hc).trans (if_neg ht)

end

/-- R142: the tick step of an engine in the block is its unit's. -/
theorem tickEngine_of_unit {pins : BitVec 64} {e : EngineId} {s : State} {r : Engine × CapBuf}
    (h : tickUnit s.params.capDepth (lineOf pins (s.eng e)) (s.eng e) (s.buf (s.eng e).chan) = r) :
    tickEngine pins e s = (s.setEng e r.1).setBuf (s.eng e).chan r.2 := by
  rw [tickEngine, h]

theorem publish_attempt_eq (r : DecodeResult) (x : Engine) : (publish r x).attempt = x.attempt := by
  cases r <;> rfl

/-- R165: the window is released and stopped before the attempt ends with CaptureTimeout. -/
theorem captureExit_timeout (x : Engine) (b : CapBuf) : captureExit .timeout x b =
    attemptEnd .captureTimeout { x with trace := x.trace ++ [.capRelease x.chan, .capStop x.chan] } := by
  simp [captureExit, emit]

/-- R165: the window is released and stopped before the attempt ends with the decode's code. -/
theorem captureExit_complete (x : Engine) (b : CapBuf) : captureExit .complete x b =
    attemptEnd (decodeBuffer x b).code
      { publish (decodeBuffer x b) x with trace := x.trace ++ [.capRelease x.chan, .capStop x.chan] } := by
  simp [captureExit, emit, publish_trace_eq]

/-- Settles O36: the sample is a steady level or one of the two edges, and the three clauses are the window's ends. -/
theorem captureTick_outcomes : Obligations.CaptureTick := by
  intro s pins e x b level rx' b' y closed hphase
  have hnext : captureNext s.params.capDepth level x b = (y, b') := by
    cases hlevel : level <;> cases hcur : x.curLevel
    · rw [captureNext_same hcur.symm]
      simp [y, b', hlevel, hcur, rx', sat16, sat32]
    · rw [captureNext_falling hcur]
      simp [y, b', hlevel, hcur, rx', sat32]
    · rw [captureNext_rising hcur]
      simp [y, b', hlevel, hcur, rx', sat32, CapBuf.push]
    · rw [captureNext_same hcur.symm]
      simp [y, b', hlevel, hcur, rx', sat16, sat32]
  have hsame : x.SameButCapture y := by
    have h := sameButCapture_captureNext s.params.capDepth level x b
    rwa [hnext] at h
  have hcomplete : captureComplete y = true ↔
      y.edgeSeen = true ∧ max (x.tIdle.extractLsb' 0 16).toNat 1 ≤ y.curLen.toNat := by
    rw [captureComplete_iff, hsame.tIdle_eq]
    rfl
  have hexpired : captureExpired y = true ↔ max x.tRxto.toNat 1 ≤ y.rx.toNat := by
    rw [captureExpired_iff, hsame.tRxto_eq]
    rfl
  rw [← hcomplete, ← hexpired]
  clear_value y b'
  refine ⟨fun hc => ?_, fun hc ht => ?_, fun hc ht => ?_⟩
  · rw [tickEngine_of_unit (tickUnit_complete hphase hnext hc), captureExit_complete, hsame.decodeBuffer_eq]
    generalize decodeFrame _ _ _ _ = r
    obtain ⟨_, _, _, _, _, _, rfl⟩ := hsame
    cases r <;> rfl
  · rw [tickEngine_of_unit (tickUnit_expired hphase hnext hc ht), captureExit_timeout]
    obtain ⟨_, _, _, _, _, _, rfl⟩ := hsame
    rfl
  · exact tickEngine_of_unit (tickUnit_captures hphase hnext hc ht)

end Sys2Proof.Machine
end

section
/-! A line that stays high in a capture window that has seen no edge: the window times out (R164), and so does the attempt
of an absent sensor (R281). -/

namespace Sys2Proof.Machine

/-! ## A level that holds -/

/-- R161: the engine after `n` further samples of its current level, before the ticks look at the window's end. -/
def Engine.heldFor (x : Engine) (n : Nat) : Engine :=
  { x with curLen := sat16 (x.curLen.toNat + n), rx := sat32 (x.rx.toNat + n) }

@[simp] theorem Engine.heldFor_zero (x : Engine) : x.heldFor 0 = x := by
  have hlen : sat16 x.curLen.toNat = x.curLen := by
    rw [sat16, Nat.min_eq_left (by omega), BitVec.ofNat_toNat, BitVec.setWidth_eq]
  have hrx : sat32 x.rx.toNat = x.rx := by
    rw [sat32, Nat.min_eq_left (by omega), BitVec.ofNat_toNat, BitVec.setWidth_eq]
  simp [heldFor, hlen, hrx]

theorem toNat_sat16 (n : Nat) : (sat16 n).toNat = min n 0xFFFF := by
  rw [sat16, BitVec.toNat_ofNat]
  omega

theorem toNat_sat32 (n : Nat) : (sat32 n).toNat = min n 0xFFFFFFFF := by
  rw [sat32, BitVec.toNat_ofNat]
  omega

/-- R9: saturation on the way is saturation at the end. -/
theorem sat16_toNat_add (m n : Nat) : sat16 ((sat16 m).toNat + n) = sat16 (m + n) := by
  apply BitVec.eq_of_toNat_eq
  simp only [toNat_sat16]
  omega

/-- R9: saturation on the way is saturation at the end. -/
theorem sat32_toNat_add (m n : Nat) : sat32 ((sat32 m).toNat + n) = sat32 (m + n) := by
  apply BitVec.eq_of_toNat_eq
  simp only [toNat_sat32]
  omega

theorem sameButCapture_heldFor (x : Engine) (n : Nat) : x.SameButCapture (x.heldFor n) := ⟨_, _, _, _, _, _, rfl⟩

/-- R161: one further sample of the current level. -/
theorem captureNext_heldFor {line : Bool} {x : Engine} (h : line = x.curLevel) (n depth : Nat) (b : CapBuf) :
    captureNext depth line (x.heldFor n) b = (x.heldFor (n + 1), b) := by
  rw [captureNext_same (x := x.heldFor n) h, Engine.heldFor, Engine.heldFor]
  simp only [sat16_toNat_add, sat32_toNat_add, Nat.add_assoc]

theorem max1_le (v : Word) : max1 v ≤ 0xFFFFFFFF := by
  have := v.isLt
  unfold max1
  omega

/-- R164: when the window of an engine whose level holds is over. -/
theorem captureExpired_heldFor_iff {x : Engine} {n : Nat} :
    captureExpired (x.heldFor n) = true ↔ max1 x.tRxto ≤ x.rx.toNat + n := by
  have hlimit := max1_le x.tRxto
  rw [captureExpired_iff, (sameButCapture_heldFor x n).tRxto_eq, Engine.heldFor, toNat_sat32]
  omega

/-- R164: without an edge nothing completes. -/
theorem not_captureComplete_of_no_edge {x : Engine} (h : x.edgeSeen = false) : ¬ captureComplete x = true := by
  simp [captureComplete, h]

section NoEdge

/-! An existing engine in a capture window without an edge, on a high line. -/

variable {s : State} {e : EngineId} {levels : List (BitVec 64)} (hrst : s.rst = false)
  (he : engineExists s.params e = true) (hphase : (s.eng e).phase = .capture) (hedge : (s.eng e).edgeSeen = false)
  (hlevel : (s.eng e).curLevel = true) (hhigh : ∀ pins ∈ levels, lineOf pins (s.eng e) = true)

include hrst he hphase hedge hlevel hhigh

/-- R164: short of max1(T_RXTO) ticks the window stays open. -/
theorem tickRun_heldFor (hlen : (s.eng e).rx.toNat + levels.length < max1 (s.eng e).tRxto) :
    (tickRun levels s).eng e = (s.eng e).heldFor levels.length := by
  induction levels using List.reverseRecOn with
  | nil => exact (Engine.heldFor_zero _).symm
  | append_singleton levels pins ih =>
    rw [List.length_append, List.length_singleton] at hlen ⊢
    obtain ⟨b, hb⟩ := tickRun_concat_eng hrst he levels pins
    have hline : lineOf pins ((s.eng e).heldFor levels.length) = (s.eng e).curLevel :=
      (hhigh pins (by simp)).trans hlevel.symm
    rw [ih (fun q hq => hhigh q (by simp [hq])) (by omega)] at hb
    rw [hb, tickUnit_captures (by exact hphase) (captureNext_heldFor hline ..)
      (not_captureComplete_of_no_edge (by exact hedge)) (by rw [captureExpired_heldFor_iff]; omega)]

/-- R164: the tick in which max1(T_RXTO) is reached ends the attempt with CaptureTimeout. -/
theorem tickRun_captureTimeout (hopen : (s.eng e).rx.toNat < max1 (s.eng e).tRxto)
    (hlen : (s.eng e).rx.toNat + levels.length = max1 (s.eng e).tRxto) :
    ∃ b, (tickRun levels s).eng e = captureExit .timeout ((s.eng e).heldFor levels.length) b := by
  obtain rfl | ⟨levels, pins, rfl⟩ := List.eq_nil_or_concat' levels
  · exact absurd hlen hopen.ne
  · rw [List.length_append, List.length_singleton] at hlen ⊢
    obtain ⟨b, hb⟩ := tickRun_concat_eng hrst he levels pins
    have hline : lineOf pins ((s.eng e).heldFor levels.length) = (s.eng e).curLevel :=
      (hhigh pins (by simp)).trans hlevel.symm
    rw [tickRun_heldFor (levels := levels) hrst he hphase hedge hlevel (fun q hq => hhigh q (by simp [hq])) (by omega)] at hb
    rw [hb, tickUnit_expired (by exact hphase) (captureNext_heldFor hline ..)
      (not_captureComplete_of_no_edge (by exact hedge)) (captureExpired_heldFor_iff.2 hlen.ge)]
    exact ⟨b, rfl⟩

end NoEdge

/-- R164, R165: the code that the end of a window gives its attempt. -/
def ExitKind.code (kind : ExitKind) (x : Engine) (b : CapBuf) : ErrCode :=
  match kind with
  | .complete => (decodeBuffer x b).code
  | .timeout => .captureTimeout

/-- R165: what the end of a window leaves in the phase and in the trace. -/
theorem captureExit_spec (kind : ExitKind) (x : Engine) (b : CapBuf) :
    ((captureExit kind x b).phase = .idle ∨ (captureExit kind x b).phase = .retryWait) ∧
    (x.trace ++ [.capRelease x.chan, .capStop x.chan, .attEnd x.attempt (kind.code x b)]) <+:
      (captureExit kind x b).trace := by
  obtain ⟨y, hy, htrace, hattempt⟩ : ∃ y, captureExit kind x b = attemptEnd (kind.code x b) y ∧
      y.trace = x.trace ++ [.capRelease x.chan, .capStop x.chan] ∧ y.attempt = x.attempt := by
    cases kind with
    | timeout => exact ⟨_, captureExit_timeout x b, rfl, rfl⟩
    | complete => exact ⟨_, captureExit_complete x b, rfl, publish_attempt_eq (decodeBuffer x b) x⟩
  obtain ⟨hend, -, -, -, -, hend'⟩ := attemptEnd_spec (kind.code x b) y
  rw [← hy, htrace, hattempt, List.append_assoc] at hend'
  exact ⟨hy ▸ hend, hend'⟩

/-- R131-R135: up to the first RESP_WAIT tick, an attempt is under way. -/
theorem attempt_open_before_respWait {s : State} {e : EngineId} {levels : List (BitVec 64)} (hrst : s.rst = false)
    (he : engineExists s.params e = true) (hphase : (s.eng e).phase = .settle) (hcnt : (s.eng e).cnt = 0)
    (hlen : levels.length ≤ max1 (s.eng e).tSettle + max1 (s.eng e).tLow + max1 (s.eng e).tRel) :
    ((tickRun levels s).eng e).phase ≠ .idle ∧ ((tickRun levels s).eng e).phase ≠ .retryWait := by
  obtain ⟨hsettle, hstart, hrel, hresp, -, -⟩ := attemptTimeline s e levels hrst he hphase hcnt
  simp only [max1] at hlen
  obtain h | h := Nat.lt_or_ge levels.length (max (s.eng e).tSettle.toNat 1)
  · simp [hsettle h]
  obtain h' | h' := Nat.lt_or_ge levels.length (max (s.eng e).tSettle.toNat 1 + max (s.eng e).tLow.toNat 1)
  · simp [(hstart h h').1]
  obtain h'' | h'' := Nat.lt_or_ge levels.length
    (max (s.eng e).tSettle.toNat 1 + max (s.eng e).tLow.toNat 1 + max (s.eng e).tRel.toNat 1)
  · simp [(hrel h' h'').1]
  · simp [hresp h'' (by omega) (by simp [List.drop_eq_nil_of_le hlen])]

/-- R134: the first RESP_WAIT tick of a high line starts the capture. -/
theorem tickRun_first_respWait_high {s : State} {e : EngineId} {before : List (BitVec 64)} {pins : BitVec 64}
    (hrst : s.rst = false) (he : engineExists s.params e = true) (hphase : (s.eng e).phase = .settle)
    (hcnt : (s.eng e).cnt = 0)
    (hlen : before.length = max1 (s.eng e).tSettle + max1 (s.eng e).tLow + max1 (s.eng e).tRel)
    (hhigh : lineOf pins (s.eng e) = true) :
    ∃ m, (tickRun (before ++ [pins]) s).eng e = captureStart ((s.eng e).inRespWait.countedTo m) := by
  have hbound := max1_pos (s.eng e).tResp
  exact tickRun_captureStart hrst he hphase hcnt hlen (by simp [hlen]) (by simp; omega) (by simp)
    (by simpa using hhigh)

/-- R131-R134, R160: an engine that began its attempt as `x`, as the capture starts. -/
theorem captureStart_inRespWait (x : Engine) (m : Nat) : captureStart (x.inRespWait.countedTo m) =
    { x with
      gpio := Gpio.inputPullUp, phase := .capture, cnt := BitVec.ofNat 32 m, rx := 0
      curLevel := true, curLen := 1, edgeSeen := false, pendValid := false, pendHigh := 0
      trace := x.trace ++ [.gpio Gpio.driveLow, .gpio Gpio.inputPullUp, .capStart x.chan] } := by
  simp [captureStart, emit, Engine.countedTo, Engine.inRespWait, Engine.inRelWait]

/-- Settles O48: the first RESP_WAIT tick starts the capture, in which the line never falls. -/
theorem absentSensorTimesOut : Obligations.AbsentSensorTimesOut := by
  intro s e levels x D X u hrst he hphase hcnt hhigh
  obtain hlen | hlen := Nat.lt_or_ge D levels.length
  case inr =>
    have hX : 0 < X := max1_pos x.tRxto
    exact ⟨fun _ => attempt_open_before_respWait hrst he hphase hcnt hlen, fun h => absurd h hlen.not_gt,
      fun h => absurd h (by omega)⟩
  obtain ⟨before, pins, rest, hbefore, rfl⟩ :
      ∃ before pins rest, before.length = D ∧ levels = before ++ [pins] ++ rest := by
    refine ⟨levels.take D, levels[D], levels.drop (D + 1), List.length_take_of_le hlen.le, ?_⟩
    rw [List.append_assoc, List.singleton_append, List.getElem_cons_drop, List.take_append_drop]
  rw [List.append_assoc, List.drop_left' hbefore] at hhigh
  have hn : (before ++ [pins] ++ rest).length = D + 1 + rest.length := by
    rw [List.length_append, List.length_append, hbefore, List.length_singleton]
  -- `t` is the state as the capture starts, one tick after RESP_WAIT is entered.
  obtain ⟨t, hu, hrst', he', m, hstart⟩ : ∃ t, u = (tickRun rest t).eng e ∧ t.rst = false ∧
      engineExists t.params e = true ∧ ∃ m, t.eng e = captureStart (x.inRespWait.countedTo m) :=
    ⟨tickRun (before ++ [pins]) s, by rw [← tickRun_append], by rwa [tickRun_rst], by rwa [tickRun_params],
      tickRun_first_respWait_high hrst he hphase hcnt hbefore (hhigh pins (by simp))⟩
  rw [captureStart_inRespWait] at hstart
  obtain ⟨hcapture, hedge, hlevel, hlines, hrx, hlimit⟩ : (t.eng e).phase = .capture ∧
      (t.eng e).edgeSeen = false ∧ (t.eng e).curLevel = true ∧ (∀ q ∈ rest, lineOf q (t.eng e) = true) ∧
      (t.eng e).rx.toNat = 0 ∧ max1 (t.eng e).tRxto = X := by
    rw [hstart]
    exact ⟨rfl, rfl, rfl, fun q hq => hhigh q (by simp [hq]), rfl, rfl⟩
  have hopen (h : rest.length < X) : u.phase = .capture := by
    rw [hu, tickRun_heldFor hrst' he' hcapture hedge hlevel hlines (by omega)]
    exact hcapture
  refine ⟨fun h => ?_, fun _ h => hopen (by omega), fun h => ?_⟩
  · simp [hopen (by omega)]
  · obtain ⟨b, hend⟩ := tickRun_captureTimeout hrst' he' hcapture hedge hlevel hlines
      (by rw [hrx]; exact max1_pos _) (by omega)
    obtain ⟨hexit, htrace⟩ := captureExit_spec .timeout ((t.eng e).heldFor rest.length) b
    rw [← hend, ← hu] at hexit htrace
    refine ⟨hexit, ?_⟩
    rwa [Engine.heldFor, hstart, List.append_assoc] at htrace

end Sys2Proof.Machine
end

section
/-! The waveform law (R168): the capture of a run of high and low phases records them as pairs, one by one, and the window
ends where the last high has held for max1(T_IDLE) ticks, or where its time is up. -/

namespace Sys2Proof.Machine

/-! ## Runs of one engine and its buffer -/

theorem unitRun_cons (depth : Nat) (line : Bool) (levels : List Bool) (x : Engine) (b : CapBuf) :
    unitRun depth (line :: levels) x b =
      unitRun depth levels (tickUnit depth line x b).1 (tickUnit depth line x b).2 := rfl

theorem unitRun_append (depth : Nat) (levels levels' : List Bool) (x : Engine) (b : CapBuf) :
    unitRun depth (levels ++ levels') x b =
      unitRun depth levels' (unitRun depth levels x b).1 (unitRun depth levels x b).2 := List.foldl_append

/-- R161: the samples take the engine and its buffer from `r` to `r'`, and after none of them the window is complete; what
the window's time does is left out. -/
def Captures (depth : Nat) : List Bool → Engine × CapBuf → Engine × CapBuf → Prop
  | [], r, r' => r' = r
  | line :: levels, r, r' =>
    ¬ captureComplete (captureNext depth line r.1 r.2).1 = true ∧ Captures depth levels (captureNext depth line r.1 r.2) r'

theorem captures_append {depth : Nat} {levels levels' : List Bool} {r r' : Engine × CapBuf} :
    Captures depth (levels ++ levels') r r' ↔ ∃ q, Captures depth levels r q ∧ Captures depth levels' q r' := by
  induction levels generalizing r with
  | nil => simp [Captures]
  | cons line levels ih => simp [Captures, ih, and_assoc]

theorem Captures.sameButCapture {depth : Nat} {levels : List Bool} {r r' : Engine × CapBuf}
    (h : Captures depth levels r r') : r.1.SameButCapture r'.1 := by
  induction levels generalizing r with
  | nil => exact h ▸ .refl r.1
  | cons line levels ih => exact (sameButCapture_captureNext depth line r.1 r.2).trans (ih h.2)

/-- R54: every CAPTURE tick is counted. -/
theorem captureNext_rx (depth : Nat) (line : Bool) (x : Engine) (b : CapBuf) :
    (captureNext depth line x b).1.rx = sat32 (x.rx.toNat + 1) := by
  obtain ⟨-, h⟩ | ⟨-, -, h⟩ | ⟨-, -, h⟩ := captureSample_cases depth line x b <;>
    simp only [captureNext, captureTick, h]

/-- R164: samples that never complete the window leave it open until max1(T_RXTO) ticks have passed, and the last of those
ends it with CaptureTimeout. -/
theorem Captures.unitRun_eq {depth : Nat} {levels : List Bool} {x y : Engine} {b b' : CapBuf}
    (h : Captures depth levels (x, b) (y, b')) (hphase : x.phase = .capture) (hopen : x.rx.toNat < max1 x.tRxto)
    (hlen : x.rx.toNat + levels.length ≤ max1 x.tRxto) :
    unitRun depth levels x b =
      (if x.rx.toNat + levels.length = max1 x.tRxto then captureExit .timeout y b' else y, b') := by
  induction levels generalizing x b with
  | nil =>
    obtain ⟨rfl, rfl⟩ := Prod.mk.inj h
    simp [unitRun, hopen.ne]
  | cons line levels ih =>
    obtain ⟨hc, hrest⟩ := h
    obtain ⟨x', b₁, hnext⟩ : ∃ x' b₁, captureNext depth line x b = (x', b₁) := ⟨_, _, rfl⟩
    have hsame := sameButCapture_captureNext depth line x b
    have hrx := captureNext_rx depth line x b
    rw [hnext] at hc hrest hsame hrx
    have hlimit := max1_le x.tRxto
    have hrx' : x'.rx.toNat = x.rx.toNat + 1 := by rw [hrx, toNat_sat32]; omega
    rw [List.length_cons] at hlen ⊢
    by_cases hlast : x.rx.toNat + 1 = max1 x.tRxto
    · obtain rfl : levels = [] := List.eq_nil_of_length_eq_zero (by omega)
      obtain ⟨rfl, rfl⟩ := Prod.mk.inj hrest
      rw [unitRun_cons, tickUnit_expired hphase hnext hc (captureExpired_iff.2 (by rw [hsame.tRxto_eq]; omega)),
        if_pos (by simpa using hlast)]
      rfl
    · have hgoes : ¬ captureExpired x' = true := by rw [captureExpired_iff, hsame.tRxto_eq]; omega
      rw [unitRun_cons, tickUnit_captures hphase hnext hc hgoes,
        ih hrest (hsame.phase_eq.trans hphase) (by rw [hsame.tRxto_eq]; omega) (by rw [hsame.tRxto_eq]; omega),
        hsame.tRxto_eq, hrx']
      simp only [Nat.add_assoc, Nat.add_comm 1]

/-! ## Phases and pairs (R161-R163) -/

/-- R164: the level must hold for so many samples. -/
def Engine.idleLimit (x : Engine) : Nat := max (low16 x.tIdle).toNat 1

theorem Engine.idleLimit_le (x : Engine) : x.idleLimit ≤ 0xFFFF := by
  have := (low16 x.tIdle).isLt
  unfold idleLimit
  omega

theorem Engine.SameButCapture.idleLimit_eq {x y : Engine} (h : x.SameButCapture y) : y.idleLimit = x.idleLimit := by
  rw [idleLimit, h.tIdle_eq, idleLimit]

theorem not_captureComplete_of_lt {x : Engine} (h : x.edgeSeen = true → x.curLen.toNat < x.idleLimit) :
    ¬ captureComplete x = true := by
  rw [captureComplete_iff]
  exact fun ⟨hseen, hlen⟩ => (h hseen).not_ge hlen

/-- R161: a level that holds, below the idle limit once an edge has been seen. -/
theorem captures_hold {depth : Nat} {x : Engine} (b : CapBuf) {m : Nat}
    (hidle : x.edgeSeen = true → x.curLen.toNat + m < x.idleLimit) :
    Captures depth (List.replicate m x.curLevel) (x, b) (x.heldFor m, b) := by
  induction m with
  | zero => simp [Captures]
  | succ m ih =>
    rw [List.replicate_succ', captures_append]
    refine ⟨_, ih fun h => by have := hidle h; omega, ?_⟩
    simp only [Captures, captureNext_heldFor (line := x.curLevel) (x := x) rfl, and_true]
    refine not_captureComplete_of_lt fun h => Nat.lt_of_le_of_lt ?_ (hidle h)
    exact (toNat_sat16 _).trans_le (Nat.min_le_left ..)

/-- R161: how long a phase is that has held since its first sample. -/
theorem Engine.curLen_heldFor {x : Engine} (hlen : x.curLen = 1) {n : Nat} (hn : n + 1 ≤ 0xFFFF) :
    (x.heldFor n).curLen = BitVec.ofNat 16 (n + 1) := by
  have hone : x.curLen.toNat = 1 := by rw [hlen]; rfl
  rw [heldFor, hone, Nat.add_comm 1 n, sat16, Nat.min_eq_left hn]

/-- R162: the engine in the tick of the falling edge after a high of `h` samples. -/
def Engine.atLow (x : Engine) (h : Nat) (rx : Word) : Engine :=
  { x with
    curLevel := false, curLen := 1, edgeSeen := true, pendValid := true, pendHigh := BitVec.ofNat 16 h, rx := rx }

/-- R162, R163: the engine in the tick of the rising edge after a pair whose high is `h` samples long. -/
def Engine.atHigh (x : Engine) (h : Nat) (rx : Word) : Engine :=
  { x with
    curLevel := true, curLen := 1, edgeSeen := true, pendValid := false, pendHigh := BitVec.ofNat 16 h, rx := rx }

section Pair

variable {depth : Nat} {x : Engine} (b : CapBuf) {h l : Nat}

/-- R162: from the first sample of a high phase to the first of the low one. -/
theorem captures_high (hlevel : x.curLevel = true) (hlen : x.curLen = 1) (hh : h + 1 ≤ 0xFFFF)
    (hidle : x.edgeSeen = true → h + 1 < x.idleLimit) (hlimit : 1 < x.idleLimit) :
    ∃ rx, Captures depth (List.replicate h true ++ [false]) (x, b) (x.atLow (h + 1) rx, b) := by
  have hhigh : Captures depth (List.replicate h true) (x, b) (x.heldFor h, b) := by
    have hhold := captures_hold (depth := depth) (x := x) b (m := h) fun hs => by rw [hlen, Nat.add_comm]; exact hidle hs
    rwa [hlevel] at hhold
  have hfall := captureNext_falling (x := x.heldFor h) hlevel depth b
  rw [Engine.curLen_heldFor hlen hh] at hfall
  refine ⟨_, captures_append.2 ⟨_, hhigh, ?_, hfall.symm⟩⟩
  exact not_captureComplete_of_lt fun _ => by rw [hfall]; exact hlimit

/-- R163: from the first sample of a low phase to the rising edge, which stores the pair. -/
theorem captures_low {rx : Word} (hl : l + 1 < x.idleLimit) :
    ∃ rx', Captures depth (List.replicate l false ++ [true]) (x.atLow h rx, b)
      (x.atHigh h rx', b.push depth ⟨BitVec.ofNat 16 h, BitVec.ofNat 16 (l + 1)⟩) := by
  have hlow : Captures depth (List.replicate l false) (x.atLow h rx, b) ((x.atLow h rx).heldFor l, b) :=
    captures_hold (x := x.atLow h rx) b fun _ => by rw [Nat.add_comm] at hl; exact hl
  have hrise := captureNext_rising (x := (x.atLow h rx).heldFor l) rfl depth b
  rw [Engine.curLen_heldFor (x := x.atLow h rx) rfl (hl.le.trans x.idleLimit_le)] at hrise
  refine ⟨_, captures_append.2 ⟨_, hlow, ?_, hrise.symm⟩⟩
  exact not_captureComplete_of_lt fun _ => by rw [hrise]; exact Nat.lt_of_le_of_lt (Nat.le_add_left ..) hl

/-- R162, R163: a pair of phases, from the first sample of its high to the rising edge after its low. -/
theorem captures_pair (hlevel : x.curLevel = true) (hlen : x.curLen = 1) (hh : h + 1 ≤ 0xFFFF)
    (hl : l + 1 < x.idleLimit) (hidle : x.edgeSeen = true → h + 1 < x.idleLimit) :
    ∃ rx, Captures depth (List.replicate h true ++ List.replicate (l + 1) false ++ [true]) (x, b)
      (x.atHigh (h + 1) rx, b.push depth ⟨BitVec.ofNat 16 (h + 1), BitVec.ofNat 16 (l + 1)⟩) := by
  obtain ⟨rx, hhigh⟩ := captures_high (depth := depth) b hlevel hlen hh hidle (by omega)
  obtain ⟨rx', hlow⟩ := captures_low (depth := depth) (x := x) b (h := h + 1) (rx := rx) hl
  refine ⟨rx', ?_⟩
  have hsplit : List.replicate h true ++ List.replicate (l + 1) false ++ [true] =
      (List.replicate h true ++ [false]) ++ (List.replicate l false ++ [true]) := by simp [List.replicate_succ]
  rw [hsplit]
  exact captures_append.2 ⟨_, hhigh, hlow⟩

end Pair

/-! ## The waveform (R168) -/

/-- R168: the levels of high and low phases, one after another. -/
def phaseLevels (ps : List (Nat × Nat)) : List Bool :=
  ps.flatMap (fun hl => List.replicate hl.1 true ++ List.replicate hl.2 false)

/-- R163: the buffer with the phases stored as pairs, one after another. -/
def pushPairs (depth : Nat) (b : CapBuf) (ps : List (Nat × Nat)) : CapBuf :=
  ps.foldl (fun b hl => CapBuf.push depth b ⟨BitVec.ofNat 16 hl.1, BitVec.ofNat 16 hl.2⟩) b

/-- R168: the phases that a capture records from the first high sample on; once an edge has been seen, each is shorter
than the idle limit. -/
def PhasesFit (limit : Nat) (ps : List (Nat × Nat)) : Prop :=
  (∀ hl ∈ ps, 1 ≤ hl.1 ∧ hl.1 ≤ 0xFFFF ∧ 1 ≤ hl.2 ∧ hl.2 < limit) ∧ (∀ hl ∈ ps.tail, hl.1 < limit)

/-- R161-R163: a capture from the first sample of a high phase on records the pairs, and ends in the first sample of a
high phase. -/
theorem captures_pairs {depth : Nat} {x : Engine} (b : CapBuf) {ps : List (Nat × Nat)} (hlevel : x.curLevel = true)
    (hlen : x.curLen = 1) (hfit : PhasesFit x.idleLimit ps)
    (hidle : x.edgeSeen = true → ∀ hl ∈ ps, hl.1 < x.idleLimit) :
    ∃ levels y, phaseLevels ps ++ [true] = true :: levels ∧ Captures depth levels (x, b) (y, pushPairs depth b ps) ∧
      y.curLevel = true ∧ y.curLen = 1 ∧ (x.edgeSeen = true ∨ ps ≠ [] → y.edgeSeen = true) := by
  induction ps generalizing x b with
  | nil => exact ⟨[], x, rfl, rfl, hlevel, hlen, fun h => h.resolve_right fun hne => hne rfl⟩
  | cons hl ps ih =>
    obtain ⟨h, l⟩ := hl
    obtain ⟨hall, htail⟩ := hfit
    obtain ⟨hh, hh', hl, hl'⟩ := hall (h, l) (by simp)
    obtain ⟨h, rfl⟩ := Nat.exists_eq_add_of_le' hh
    obtain ⟨l, rfl⟩ := Nat.exists_eq_add_of_le' hl
    obtain ⟨rx, hpair⟩ := captures_pair (depth := depth) b hlevel hlen hh' hl' fun hs => hidle hs (h + 1, l + 1) (by simp)
    obtain ⟨levels, y, heq, hrest, hy, hy', hseen⟩ := ih (x := x.atHigh (h + 1) rx)
      (b.push depth ⟨BitVec.ofNat 16 (h + 1), BitVec.ofNat 16 (l + 1)⟩) rfl rfl
      ⟨fun q hq => hall q (by simp [hq]), fun q hq => htail q (List.mem_of_mem_tail hq)⟩ fun _ => htail
    refine ⟨_, y, ?_, captures_append.2 ⟨_, hpair, hrest⟩, hy, hy', fun _ => hseen (.inl rfl)⟩
    rw [phaseLevels, List.flatMap_cons, List.append_assoc, ← phaseLevels, heq]
    simp [List.replicate_succ]

/-- R168: the whole wave, but its first and its last sample: the pairs are recorded, and one more high sample completes the
window. -/
theorem captures_wave {depth : Nat} {x : Engine} (b : CapBuf) {ps : List (Nat × Nat)} (hne : ps ≠ [])
    (hfit : PhasesFit x.idleLimit ps) :
    ∃ body y y', phaseLevels ps ++ List.replicate x.idleLimit true = true :: (body ++ [true]) ∧
      Captures depth body (captureStart x, b.empty) (y, pushPairs depth b.empty ps) ∧
      captureNext depth true y (pushPairs depth b.empty ps) = (y', pushPairs depth b.empty ps) ∧
      captureComplete y' = true ∧ (captureStart x).SameButCapture y' := by
  obtain ⟨levels, y, heq, hpairs, hlevel, hlen, hseen⟩ :=
    captures_pairs (depth := depth) (x := captureStart x) b.empty rfl rfl hfit nofun
  have hsame : y.idleLimit = x.idleLimit := hpairs.sameButCapture.idleLimit_eq
  obtain ⟨n, hn⟩ : ∃ n, x.idleLimit = n + 2 := by
    obtain ⟨hl, hmem⟩ := List.exists_mem_of_ne_nil ps hne
    obtain ⟨-, -, h, h'⟩ := hfit.1 hl hmem
    exact Nat.exists_eq_add_of_le' (Nat.lt_of_le_of_lt h h')
  have hone : y.curLen.toNat = 1 := by rw [hlen]; rfl
  have hhold := captures_hold (depth := depth) (x := y) (pushPairs depth b.empty ps) (m := n) fun _ => by omega
  rw [hlevel] at hhold
  refine ⟨levels ++ List.replicate n true, y.heldFor n, y.heldFor (n + 1), ?_, captures_append.2 ⟨_, hpairs, hhold⟩,
    captureNext_heldFor hlevel.symm n depth _, captureComplete_iff.2 ⟨hseen (.inr hne), ?_⟩,
    hpairs.sameButCapture.trans (sameButCapture_heldFor y (n + 1))⟩
  · rw [hn, List.replicate_succ, List.append_cons, heq, List.replicate_succ']
    simp
  · have hlimit := x.idleLimit_le
    rw [Engine.curLen_heldFor hlen (by omega), BitVec.toNat_ofNat]
    change y.idleLimit ≤ _
    omega

/-! ## The window around the wave (R160, R164, R165) -/

section Window

variable {depth : Nat} {x y y' : Engine} {b b' : CapBuf} {body : List Bool} (hphase : x.phase = .respWait)
  (hbody : Captures depth body (captureStart x, b.empty) (y, b'))

/-- R160, R164: the run from the first high sample, which opens the window, through samples that do not complete it. -/
theorem unitRun_of_captures {levels : List Bool} {z : Engine} {b₁ : CapBuf} (hphase : x.phase = .respWait)
    (h : Captures depth levels (captureStart x, b.empty) (z, b₁)) (hlen : levels.length ≤ max1 x.tRxto) :
    unitRun depth (true :: levels) x b =
      (if levels.length = max1 x.tRxto then captureExit .timeout z b₁ else z, b₁) := by
  have hrx : (captureStart x).rx.toNat = 0 := rfl
  have hrun := h.unitRun_eq rfl (max1_pos x.tRxto) (by rw [hrx, Nat.zero_add]; exact hlen)
  rw [hrx, Nat.zero_add] at hrun
  rw [unitRun_cons, tickUnit_respWait_high hphase]
  exact hrun

include hbody in
/-- A part of the samples is recorded like the whole. -/
theorem Captures.take (k : Nat) : ∃ z b₁, Captures depth (body.take k) (captureStart x, b.empty) (z, b₁) := by
  rw [← List.take_append_drop k body] at hbody
  obtain ⟨⟨z, b₁⟩, htake, -⟩ := captures_append.1 hbody
  exact ⟨z, b₁, htake⟩

include hphase hbody

/-- R164: while neither condition holds, the window is open. -/
theorem unitRun_window_open {k : Nat} (hk : k ≤ body.length) (hk' : k < max1 x.tRxto) :
    (unitRun depth (true :: body.take k) x b).1.phase = .capture := by
  obtain ⟨z, b₁, hz⟩ := hbody.take k
  have hlen : (body.take k).length < max1 x.tRxto := by rwa [List.length_take_of_le hk]
  rw [unitRun_of_captures hphase hz hlen.le, if_neg hlen.ne]
  exact hz.sameButCapture.phase_eq

/-- R164: a window that has not completed by then ends max1(T_RXTO) ticks after its first one. -/
theorem unitRun_window_timeout (hlong : max1 x.tRxto ≤ body.length) :
    ∃ z b₁, (captureStart x).SameButCapture z ∧
      unitRun depth (true :: body.take (max1 x.tRxto)) x b = (captureExit .timeout z b₁, b₁) := by
  obtain ⟨z, b₁, hz⟩ := hbody.take (max1 x.tRxto)
  have hlen : (body.take (max1 x.tRxto)).length = max1 x.tRxto := List.length_take_of_le hlong
  rw [unitRun_of_captures hphase hz hlen.le, if_pos hlen]
  exact ⟨z, b₁, hz.sameButCapture, rfl⟩

/-- R164: a sample that completes the window, at the latest in its last tick, ends it. -/
theorem unitRun_window_complete (hshort : body.length < max1 x.tRxto) (hnext : captureNext depth true y b' = (y', b'))
    (hc : captureComplete y' = true) :
    unitRun depth (true :: (body ++ [true])) x b = (captureExit .complete y' b', b') := by
  have hy : y.phase = .capture := hbody.sameButCapture.phase_eq
  rw [← List.cons_append, unitRun_append, unitRun_of_captures hphase hbody hshort.le, if_neg hshort.ne, unitRun_cons,
    tickUnit_complete hy hnext hc]
  rfl

end Window

/-- R164, R168: a wave that fits in the window completes it, with its pairs stored. -/
theorem unitRun_wave {depth : Nat} {x : Engine} (b : CapBuf) {ps : List (Nat × Nat)} (hphase : x.phase = .respWait)
    (hne : ps ≠ []) (hfit : PhasesFit x.idleLimit ps)
    (hshort : (phaseLevels ps ++ List.replicate x.idleLimit true).length - 1 ≤ max1 x.tRxto) :
    ∃ y, (captureStart x).SameButCapture y ∧ unitRun depth (phaseLevels ps ++ List.replicate x.idleLimit true) x b =
      (captureExit .complete y (pushPairs depth b.empty ps), pushPairs depth b.empty ps) := by
  obtain ⟨body, y, y', hwave, hbody, hnext, hc, hsame⟩ := captures_wave (depth := depth) b hne hfit
  rw [hwave] at hshort ⊢
  exact ⟨y', hsame, unitRun_window_complete hphase hbody (by simpa using hshort) hnext hc⟩

/-- R165: how a window that was opened from `x` ends, and its events. -/
theorem captureExit_of_window {x z : Engine} (h : (captureStart x).SameButCapture z) (kind : ExitKind) (b : CapBuf) :
    ((captureExit kind z b).phase = .idle ∨ (captureExit kind z b).phase = .retryWait) ∧
    (x.trace ++ [.capStart x.chan, .capRelease x.chan, .capStop x.chan, .attEnd x.attempt (kind.code z b)]) <+:
      (captureExit kind z b).trace := by
  obtain ⟨hend, htrace⟩ := captureExit_spec kind z b
  refine ⟨hend, ?_⟩
  obtain ⟨_, _, _, _, _, _, rfl⟩ := h
  rwa [captureStart, emit, List.append_assoc] at htrace

/-- Settles O49: the wave but for its last sample is recorded without completing, and the last sample completes it; the
window's time cuts it short or not. -/
theorem waveformIsRecorded : Obligations.WaveformIsRecorded := by
  intro depth x b ps I X wave last code hphase hne hall htail
  obtain ⟨body, y, -, hwave, hbody, -⟩ := captures_wave (depth := depth) (x := x) b hne ⟨hall, htail⟩
  change wave = _ at hwave
  have htake (k : Nat) (hk : k ≤ body.length) : wave.take (k + 1) = true :: body.take k := by
    rw [hwave, List.take_succ_cons, List.take_append_of_le_length hk]
  have hlen : wave.length = body.length + 2 := by simp [hwave]
  have hopen (n : Nat) (h1 : 1 ≤ n) (hn : n < wave.length) (hX : n < X + 1) :
      (unitRun depth (wave.take n) x b).1.phase = .capture := by
    obtain ⟨k, rfl⟩ := Nat.exists_eq_add_of_le' h1
    rw [htake k (by omega)]
    exact unitRun_window_open hphase hbody (by omega) (Nat.lt_of_succ_lt_succ hX)
  refine ⟨fun hshort => ?_, fun hlong => ?_⟩
  · obtain ⟨z, hsame, hrun⟩ : ∃ z, (captureStart x).SameButCapture z ∧
        unitRun depth wave x b = (captureExit .complete z last, last) := unitRun_wave b hphase hne ⟨hall, htail⟩ hshort
    have hcode : ExitKind.complete.code z last = code := congrArg DecodeResult.code (hsame.decodeBuffer_eq last)
    obtain ⟨hend, htrace⟩ := captureExit_of_window hsame .complete last
    rw [hcode] at htrace
    rw [hrun]
    exact ⟨fun n h1 hn => hopen n h1 hn (by omega), rfl, hend, htrace⟩
  · obtain ⟨z, b₁, hz, hrun⟩ := unitRun_window_timeout hphase hbody (show X ≤ body.length by omega)
    rw [htake X (by omega)]
    rw [show max1 x.tRxto = X from rfl] at hrun
    rw [hrun]
    exact ⟨fun n h1 hn => hopen n h1 (by omega) hn, captureExit_of_window hz .timeout b₁⟩

end Sys2Proof.Machine
end

section
/-! From the wire to the registers (R168, R190-R200): the pairs that a capture records, the frame bits that they carry, and
the reading that a command ends with. -/

namespace Sys2Proof.Machine

/-! ## The samples of a buffer (R49, R163) -/

theorem CapBuf.length_samples (b : CapBuf) : b.samples.length = min b.count 64 := by
  simp [CapBuf.samples]

/-- R163: a push below CAP_DEPTH appends to the samples held. -/
theorem CapBuf.samples_push {depth : Nat} {b : CapBuf} (hdepth : b.count < depth) (hroom : b.count < 64) (q : Sample) :
    (b.push depth q).samples = b.samples ++ [q] := by
  have hlen : b.count < b.entries.toList.length := by simpa using hroom
  rw [push_of_lt hdepth, samples, samples, Vector.toList_setIfInBounds, List.take_add_one, List.take_set_of_le le_rfl,
    List.getElem?_set_self hlen]
  rfl

/-- R163: a push with no room drops the sample. -/
theorem CapBuf.samples_push_full {depth : Nat} {b : CapBuf} (hfull : depth ≤ b.count ∨ 64 ≤ b.count) (q : Sample) :
    (b.push depth q).samples = b.samples := by
  obtain hdepth | hdepth := Nat.lt_or_ge b.count depth
  · have hroom : 64 ≤ b.count := hfull.resolve_left hdepth.not_ge
    rw [push_of_lt hdepth, samples, samples, Vector.setIfInBounds_eq_of_size_le hroom,
      List.take_of_length_le (by simp; omega), List.take_of_length_le (by simpa using hroom)]
  · rw [push_of_le hdepth]
    rfl

/-- R82: the sample of a pair of phases. -/
def sampleOfPair (hl : Nat × Nat) : Sample := ⟨BitVec.ofNat 16 hl.1, BitVec.ofNat 16 hl.2⟩

theorem pushPairs_concat (depth : Nat) (b : CapBuf) (ps : List (Nat × Nat)) (hl : Nat × Nat) :
    pushPairs depth b (ps ++ [hl]) = (pushPairs depth b ps).push depth (sampleOfPair hl) := List.foldl_append

theorem count_pushPairs (depth : Nat) (b : CapBuf) (ps : List (Nat × Nat)) :
    (pushPairs depth b.empty ps).count = min ps.length depth := by
  induction ps using List.reverseRecOn with
  | nil => exact (Nat.zero_min depth).symm
  | append_singleton ps hl ih =>
    rw [pushPairs_concat, List.length_append, List.length_singleton]
    obtain h | h := Nat.lt_or_ge (pushPairs depth b.empty ps).count depth
    · rw [CapBuf.push_of_lt h]
      simp only
      omega
    · rw [CapBuf.push_of_le h]
      simp only
      omega

/-- R163: the buffer holds the first CAP_DEPTH pairs pushed to it, as far as it has entries. -/
theorem samples_pushPairs (depth : Nat) (b : CapBuf) (ps : List (Nat × Nat)) :
    (pushPairs depth b.empty ps).samples = (ps.map sampleOfPair).take (min depth 64) := by
  induction ps using List.reverseRecOn with
  | nil => simp [pushPairs, CapBuf.samples]
  | append_singleton ps hl ih =>
    have hcount := count_pushPairs depth b ps
    rw [pushPairs_concat, List.map_append, List.map_singleton]
    obtain h | h := Nat.lt_or_ge ps.length (min depth 64)
    · rw [CapBuf.samples_push (by omega) (by omega), ih, List.take_of_length_le (by simp; omega),
        List.take_of_length_le (by simp; omega)]
    · rw [CapBuf.samples_push_full (by omega), ih, List.take_append_of_le_length (by simpa using h)]

/-! ## The frame (R191-R193) -/

/-- R192: bits gathered most significant first are the value they are the bits of. -/
theorem gatherBits_eq_toNat {n : Nat} (v : BitVec n) {f : Nat → Bool} {start : Nat}
    (h : ∀ k < n, f (start + k) = v.getLsbD (n - 1 - k)) : gatherBits f start n = v.toNat := by
  induction n generalizing start with
  | zero => simp [gatherBits, BitVec.eq_nil v]
  | succ n ih =>
    have hrest : gatherBits f (start + 1) n = (v.setWidth n).toNat := by
      refine ih (v.setWidth n) fun k hk => ?_
      rw [Nat.add_assoc, Nat.add_comm 1, h (k + 1) (by omega), BitVec.getLsbD_setWidth]
      simp only [show n - 1 - k < n by omega, decide_true, Bool.true_and]
      congr 1
      omega
    have hfirst : f start = v.msb := by
      rw [BitVec.msb_eq_getLsbD_last]
      exact h 0 n.succ_pos
    rw [gatherBits, hrest, hfirst, ← Nat.shiftLeft_eq, ← BitVec.toNat_cons', BitVec.cons_msb_setWidth]

/-- R190-R193: samples whose bits are those of `h`, `t` and their checksum decode to them. -/
theorem decodeFrame_of_frameBits {ss : List Sample} {profile bitph : Bool} {thr h t : Half} (hlen : 41 ≤ ss.length)
    (hbits : ∀ j < 40, frameBit bitph thr ss j = (h ++ t ++ frameChecksum h t).getLsbD (39 - j)) :
    decodeFrame ss profile bitph thr =
      .ok ⟨h, t, frameChecksum h t, (convert profile h t).1, (convert profile h t).2.1, (convert profile h t).2.2⟩ := by
  have hh : humidityRaw (frameBit bitph thr ss) = h := by
    rw [humidityRaw, gatherBits_eq_toNat h fun k hk => ?_, BitVec.ofNat_toNat, BitVec.setWidth_eq]
    rw [hbits (0 + k) (by omega), BitVec.getLsbD_append, if_neg (by omega), BitVec.getLsbD_append, if_neg (by omega)]
    congr 1
    omega
  have ht : temperatureRaw (frameBit bitph thr ss) = t := by
    rw [temperatureRaw, gatherBits_eq_toNat t fun k hk => ?_, BitVec.ofNat_toNat, BitVec.setWidth_eq]
    rw [hbits (16 + k) (by omega), BitVec.getLsbD_append, if_neg (by omega), BitVec.getLsbD_append, if_pos (by omega)]
    congr 1
    omega
  have hc : checksumField (frameBit bitph thr ss) = frameChecksum h t := by
    rw [checksumField, gatherBits_eq_toNat (frameChecksum h t) fun k hk => ?_, BitVec.ofNat_toNat, BitVec.setWidth_eq]
    rw [hbits (32 + k) (by omega), BitVec.getLsbD_append, if_pos (by omega)]
    congr 1
    omega
  simp [decodeFrame, Nat.not_lt.2 hlen, hh, ht, hc]

/-- R191: the frame bit that a pair of the waveform carries, if the buffer has room for it. -/
theorem frameBit_of_pair {ps : List (Nat × Nat)} {n j : Nat} {hl : Nat × Nat} (hn : j + 1 < n) (h : ps[j + 1]? = some hl)
    (bitph : Bool) (thr : Half) :
    frameBit bitph thr ((ps.map sampleOfPair).take n) j = sampleBit bitph thr (sampleOfPair hl) := by
  rw [frameBit, List.getD_eq_getElem?_getD, List.getElem?_take_of_lt hn, List.getElem?_map, h]
  rfl

/-- R165, R196, R223: a window that completes with a good frame ends the command with its reading. -/
theorem captureExit_of_good_frame {x : Engine} {b : CapBuf} {f : Frame} (h : decodeBuffer x b = .ok f) :
    captureExit .complete x b = { writeResults f x with
      phase := .idle, busy := false, done := true, err := .none
      trace := x.trace ++ [.capRelease x.chan, .capStop x.chan, .attEnd x.attempt .none, .cmdDone .none] } := by
  rw [captureExit_complete, h, DecodeResult.code, attemptEnd_none]
  simp [finish, emit, publish, writeResults]

/-- Settles O50: the wave completes its window with the pairs stored, and they decode to the frame. -/
theorem goodFrameIsDelivered : Obligations.GoodFrameIsDelivered := by
  intro depth x b ps h t I X wave frame value u hphase hdepth hps hall htail hshort hbits
  obtain ⟨y, hsame, hrun⟩ : ∃ y, (captureStart x).SameButCapture y ∧ unitRun depth wave x b =
      (captureExit .complete y (pushPairs depth b.empty ps), pushPairs depth b.empty ps) :=
    unitRun_wave b hphase (List.ne_nil_of_length_pos (by omega)) ⟨hall, htail⟩ hshort
  have hdecode : decodeBuffer y (pushPairs depth b.empty ps) =
      .ok ⟨h, t, frameChecksum h t, value.1, value.2.1, value.2.2⟩ := by
    rw [hsame.decodeBuffer_eq, ← CapBuf.samples, samples_pushPairs]
    refine decodeFrame_of_frameBits (by simp; omega) fun j hj => ?_
    have hj' : j + 1 < ps.length := by omega
    rw [frameBit_of_pair (by omega) (List.getElem?_eq_getElem hj')]
    exact hbits j hj _ (List.getElem?_eq_getElem hj')
  have hu : u = captureExit .complete y (pushPairs depth b.empty ps) := congrArg Prod.fst hrun
  rw [hu, captureExit_of_good_frame hdecode]
  obtain ⟨_, _, _, _, _, _, rfl⟩ := hsame
  exact ⟨rfl, rfl, rfl, rfl, rfl, rfl, rfl, rfl, rfl, rfl, rfl, rfl⟩

end Sys2Proof.Machine
end

section
/-! The frame decoder (43_decode.md): the bits that a gathered field holds, the bytes that the checksum adds, and what a
decode reads of its samples. -/

namespace Sys2Proof.Machine

/-! ## Gathered bits (R192) -/

/-- R192: the field that is gathered from `n` bits. -/
def gathered (f : Nat → Bool) (start n : Nat) : BitVec n := BitVec.ofNat n (gatherBits f start n)

theorem humidityRaw_eq_gathered (f : Nat → Bool) : humidityRaw f = gathered f 0 16 := rfl

theorem temperatureRaw_eq_gathered (f : Nat → Bool) : temperatureRaw f = gathered f 16 16 := rfl

theorem checksumField_eq_gathered (f : Nat → Bool) : checksumField f = gathered f 32 8 := rfl

theorem gathered_eq_ofFnLE (f : Nat → Bool) (start n : Nat) :
    gathered f start n = BitVec.ofFnLE fun i : Fin n => f (start + (n - 1 - i)) := by
  rw [gathered, gatherBits_eq_toNat (BitVec.ofFnLE _) fun k hk => ?_, BitVec.ofNat_toNat, BitVec.setWidth_eq]
  rw [BitVec.getLsbD_ofFnLE, dif_pos (by omega)]
  congr 1
  dsimp only
  omega

/-- R192: most significant bit first: bit `i` of a gathered field is the one that stands `i` places before its last. -/
theorem getLsbD_gathered (f : Nat → Bool) (start : Nat) {n i : Nat} (hi : i < n) :
    (gathered f start n).getLsbD i = f (start + (n - 1 - i)) := by
  rw [gathered_eq_ofFnLE, BitVec.getLsbD_ofFnLE, dif_pos hi]

theorem getLsbD_gathered_msbFirst (f : Nat → Bool) (start : Nat) {n k : Nat} (hk : k < n) :
    (gathered f start n).getLsbD (n - 1 - k) = f (start + k) := by
  rw [getLsbD_gathered _ _ (by omega), show n - 1 - (n - 1 - k) = k by omega]

/-- Two fields are equal exactly if the bits they are gathered from are. -/
theorem gathered_eq_iff {f g : Nat → Bool} {start n : Nat} :
    gathered f start n = gathered g start n ↔ ∀ k < n, f (start + k) = g (start + k) := by
  constructor
  · intro h k hk
    rw [← getLsbD_gathered_msbFirst f start hk, h, getLsbD_gathered_msbFirst g start hk]
  · intro h
    refine BitVec.eq_of_getLsbD_eq fun i hi => ?_
    rw [getLsbD_gathered f start hi, getLsbD_gathered g start hi, h _ (by omega)]

/-- A field is the bits gathered first, above those gathered after them. -/
theorem gathered_add (f : Nat → Bool) (start m n : Nat) :
    gathered f start (m + n) = gathered f start m ++ gathered f (start + m) n := by
  refine BitVec.eq_of_getLsbD_eq fun i hi => ?_
  rw [getLsbD_gathered f start hi, BitVec.getLsbD_append]
  split
  · next hlow =>
    rw [getLsbD_gathered _ _ hlow]
    congr 1
    omega
  · next hhigh =>
    rw [getLsbD_gathered _ _ (by omega)]
    congr 1
    omega

/-- Settles O39: each field is gathered from its own bits, the first of them the most significant. -/
theorem fieldsGatherMsbFirst : Obligations.FieldsGatherMsbFirst := by
  intro f
  refine ⟨fun k hk => ?_, fun k hk => ?_, fun k hk => ?_⟩
  · rw [humidityRaw_eq_gathered, getLsbD_gathered_msbFirst f 0 hk, Nat.zero_add]
  · rw [temperatureRaw_eq_gathered, getLsbD_gathered_msbFirst f 16 hk]
  · rw [checksumField_eq_gathered, getLsbD_gathered_msbFirst f 32 hk]

/-! ## Bytes of a field, the checksum and the conversion (R193-R195) -/

theorem highByte_eq_extractLsb' (v : Half) : highByte v = (v.extractLsb' 8 8).toNat := by
  rw [BitVec.extractLsb'_toNat, Nat.shiftRight_eq_div_pow, highByte]
  omega

theorem lowByte_eq_extractLsb' (v : Half) : lowByte v = (v.extractLsb' 0 8).toNat := by
  rw [BitVec.extractLsb'_toNat, Nat.shiftRight_zero, lowByte]

theorem magnitude_eq_extractLsb' (t : Half) : magnitude t = (t.extractLsb' 0 15).toNat := by
  rw [BitVec.extractLsb'_toNat, Nat.shiftRight_zero, magnitude]

/-- R193: the checksum as a sum of bytes, which wraps modulo 256 by itself. -/
theorem frameChecksum_eq_add (h t : Half) : frameChecksum h t =
    h.extractLsb' 8 8 + h.extractLsb' 0 8 + t.extractLsb' 8 8 + t.extractLsb' 0 8 := by
  simp only [frameChecksum, highByte_eq_extractLsb', lowByte_eq_extractLsb', BitVec.ofNat_add, BitVec.ofNat_toNat,
    BitVec.setWidth_eq]

theorem convert_zero (h t : Half) : convert false h t =
    ((h.toNat : Int), if signFlag t then -(magnitude t : Int) else (magnitude t : Int), signFlag t) := rfl

theorem convert_one (h t : Half) : convert true h t =
    (((10 * highByte h + lowByte h : Nat) : Int), ((10 * highByte t + lowByte t : Nat) : Int), false) := rfl

theorem magnitude_le (t : Half) : magnitude t ≤ 32767 := by
  unfold magnitude
  omega

/-- R195: an integer byte and a tenths byte are at most 280.5 in tenths. -/
theorem byte_tenths_le (v : Half) : 10 * highByte v + lowByte v ≤ 2805 := by
  unfold highByte lowByte
  omega

/-- Settles O41: the sign is T[15] and the tenths are T[14:0], so neither depends on the other. -/
theorem profileZeroConversion : Obligations.ProfileZeroConversion := by
  intro h t
  refine ⟨?_, ?_, rfl⟩
  · rw [convert_zero, magnitude_eq_extractLsb', signFlag]
  · have hmag := magnitude_le t
    rw [convert_zero]
    dsimp only
    split <;> omega

/-- Settles O42: ten times one byte and another, each at most 255. -/
theorem profileOneConversion : Obligations.ProfileOneConversion := by
  intro h t
  refine ⟨?_, ?_⟩
  · simp only [convert_one, highByte_eq_extractLsb', lowByte_eq_extractLsb', Nat.cast_add, Nat.cast_mul,
      Nat.cast_ofNat]
  · have hhum := byte_tenths_le h
    have htemp := byte_tenths_le t
    rw [convert_one]
    dsimp only
    omega

/-! ## The order of the tests (R190) -/

section
variable {ss : List Sample} {profile bitph : Bool} {thr : Half}

theorem decodeFrame_of_short (hlen : ss.length < 41) : decodeFrame ss profile bitph thr = .insufficientData :=
  if_pos hlen

/-- R190, R193: with enough samples, the checksum alone decides. -/
theorem decodeFrame_of_ne_checksum (hlen : 41 ≤ ss.length)
    (hsum : checksumField (frameBit bitph thr ss) ≠
      frameChecksum (humidityRaw (frameBit bitph thr ss)) (temperatureRaw (frameBit bitph thr ss))) :
    decodeFrame ss profile bitph thr = .checksumError := by
  rw [decodeFrame, if_neg (Nat.not_lt.2 hlen)]
  exact if_pos hsum

theorem decodeFrame_of_eq_checksum (hlen : 41 ≤ ss.length) {h t : Half}
    (hh : humidityRaw (frameBit bitph thr ss) = h) (ht : temperatureRaw (frameBit bitph thr ss) = t)
    (hsum : checksumField (frameBit bitph thr ss) = frameChecksum h t) :
    decodeFrame ss profile bitph thr =
      .ok ⟨h, t, frameChecksum h t, (convert profile h t).1, (convert profile h t).2.1, (convert profile h t).2.2⟩ := by
  subst hh ht
  rw [decodeFrame, if_neg (Nat.not_lt.2 hlen)]
  refine (if_neg (not_not.2 hsum)).trans ?_
  rw [hsum]

/-- A decode that gives a value has found the checksum that the frame bits ask for. -/
theorem checksumField_of_decodeFrame_ok {f : Frame} (h : decodeFrame ss profile bitph thr = .ok f) :
    checksumField (frameBit bitph thr ss) =
      frameChecksum (humidityRaw (frameBit bitph thr ss)) (temperatureRaw (frameBit bitph thr ss)) := by
  by_contra hsum
  rw [decodeFrame_of_ne_checksum (decodeFrame_ok_checksum h).2 hsum] at h
  exact DecodeResult.noConfusion h

end

/-- Settles O37: the length test is the outer one, the checksum test the inner. -/
theorem decodeChecksLengthThenChecksum : Obligations.DecodeChecksLengthThenChecksum := by
  intro ss profile bitph thr h t c
  refine ⟨decodeFrame_of_short, decodeFrame_of_ne_checksum, fun hlen hsum => ?_⟩
  rw [hsum]
  exact decodeFrame_of_eq_checksum hlen rfl rfl hsum

/-- Settles O40: the sum of bytes wraps modulo 256. -/
theorem checksumIsTheByteSum : Obligations.ChecksumIsTheByteSum := by
  refine ⟨fun h t => ?_, fun ss profile bitph thr => decodeFrame_of_ne_checksum, by decide⟩
  rw [frameChecksum, BitVec.toNat_ofNat, highByte_eq_extractLsb', lowByte_eq_extractLsb', highByte_eq_extractLsb',
    lowByte_eq_extractLsb']

/-! ## What a decode reads of its samples (R191, R198) -/

theorem sampleBit_iff (bitph : Bool) (thr : Half) (q : Sample) :
    sampleBit bitph thr q = true ↔ thr.toNat ≤ (selectedDuration bitph q).toNat := decide_eq_true_iff

/-- R191: frame bit `j` is the bit of sample `j + 1`. -/
theorem frameBit_of_getElem? {ss : List Sample} {j : Nat} {q : Sample} (h : ss[j + 1]? = some q) (bitph : Bool)
    (thr : Half) : frameBit bitph thr ss j = sampleBit bitph thr q := by
  rw [frameBit, List.getD_eq_getElem?_getD, h, Option.getD_some]

/-- Settles O38: the bit compares the selected duration of sample `j + 1` with the threshold. -/
theorem bitDecision : Obligations.BitDecision := by
  refine ⟨fun ss thr j q hq => ?_, fun h => ?_, fun ss bitph j => ?_⟩
  · simp only [frameBit_of_getElem? hq, sampleBit_iff]
    exact ⟨Iff.rfl, Iff.rfl⟩
  · exact ⟨rfl, rfl⟩
  · exact (sampleBit_iff ..).2 (Nat.zero_le _)

/-- R198: a decode depends on its frame bits alone. -/
theorem decodeFrame_congr {ss ss' : List Sample} {profile bitph : Bool} {thr : Half} (hlen : 41 ≤ ss.length)
    (hlen' : 41 ≤ ss'.length) (hbits : ∀ j < 40, frameBit bitph thr ss j = frameBit bitph thr ss' j) :
    decodeFrame ss profile bitph thr = decodeFrame ss' profile bitph thr := by
  have hh : humidityRaw (frameBit bitph thr ss) = humidityRaw (frameBit bitph thr ss') :=
    gathered_eq_iff.2 fun k hk => hbits (0 + k) (by omega)
  have ht : temperatureRaw (frameBit bitph thr ss) = temperatureRaw (frameBit bitph thr ss') :=
    gathered_eq_iff.2 fun k hk => hbits (16 + k) (by omega)
  have hc : checksumField (frameBit bitph thr ss) = checksumField (frameBit bitph thr ss') :=
    gathered_eq_iff.2 fun k hk => hbits (32 + k) (by omega)
  simp only [decodeFrame, Config.minSamples, Nat.not_lt.2 hlen, Nat.not_lt.2 hlen', hh, ht, hc]

/-- Settles O43: the frame bits come from samples 1 to 40. -/
theorem markerAndExtraSamplesAreIgnored : Obligations.MarkerAndExtraSamplesAreIgnored := by
  intro ss ss' profile bitph thr hlen hlen' hsame
  refine decodeFrame_congr hlen hlen' fun j hj => ?_
  simp only [frameBit, List.getD_eq_getElem?_getD, hsame (j + 1) (by omega) (by omega)]

/-! ## The round trip (R200) -/

/-- A sample that carries `b` at a threshold of at least 1, in both of its durations. -/
def sampleOfBit (thr : Half) (b : Bool) : Sample := ⟨if b then thr else 0, if b then thr else 0⟩

theorem selectedDuration_sampleOfBit (thr : Half) (bitph b : Bool) :
    selectedDuration bitph (sampleOfBit thr b) = if b then thr else 0 := ite_self _

theorem sampleBit_sampleOfBit {thr : Half} (hthr : 1 ≤ thr.toNat) (bitph b : Bool) :
    sampleBit bitph thr (sampleOfBit thr b) = b := by
  rw [sampleBit, selectedDuration_sampleOfBit]
  cases b with
  | false => exact decide_eq_false (Nat.not_le.2 hthr)
  | true => exact decide_eq_true le_rfl

/-- Settles O44: sample `j + 1` of a marker and a body is entry `j` of the body. -/
theorem frameRoundTrip : Obligations.FrameRoundTrip := by
  intro profile bitph thr h t frame
  refine ⟨fun marker body hlen hbody => ?_, fun hthr => ?_⟩
  · refine decodeFrame_of_frameBits (by simp [hlen]) fun j hj => ?_
    have hq : body[j]? = some body[j] := List.getElem?_eq_getElem (by omega)
    rw [frameBit_of_getElem? (List.getElem?_cons_succ.trans hq), hbody j _ hq]
  · refine ⟨(List.range 40).map fun j => sampleOfBit thr (frame.getLsbD (39 - j)), by simp, fun j q hq => ?_⟩
    obtain ⟨hj, rfl⟩ := List.getElem?_eq_some_iff.1 hq
    simp only [List.getElem_map, List.getElem_range, sampleBit_sampleOfBit hthr]

/-! ## A single flipped bit (R201) -/

/-- Byte `i` of the 40 frame bits: the two of H, the two of T, the checksum. -/
def frameByte (f : Nat → Bool) (i : Nat) : BitVec 8 := gathered f (8 * i) 8

/-- R193: the checksum test, said of the five bytes. -/
theorem checksumField_eq_iff (f : Nat → Bool) :
    checksumField f = frameChecksum (humidityRaw f) (temperatureRaw f) ↔
      frameByte f 0 + frameByte f 1 + frameByte f 2 + frameByte f 3 = frameByte f 4 := by
  have hh : humidityRaw f = frameByte f 0 ++ frameByte f 1 := gathered_add f 0 8 8
  have ht : temperatureRaw f = frameByte f 2 ++ frameByte f 3 := gathered_add f 16 8 8
  rw [hh, ht, frameChecksum_eq_add, eq_comm]
  simp only [BitVec.extractLsb'_append_eq_left, BitVec.extractLsb'_append_eq_right]
  exact Iff.rfl

/-- Four of the five bytes of a frame that passes the checksum test determine the fifth. -/
theorem byte_eq_of_checksum {b b' : Nat → BitVec 8} {i : Nat} (hi : i < 5) (h : b 0 + b 1 + b 2 + b 3 = b 4)
    (h' : b' 0 + b' 1 + b' 2 + b' 3 = b' 4) (hsame : ∀ k < 5, k ≠ i → b' k = b k) : b' i = b i := by
  have hdiff : (b' 0 - b 0) + (b' 1 - b 1) + (b' 2 - b 2) + (b' 3 - b 3) = b' 4 - b 4 := by
    linear_combination h' - h
  have hzero : ∀ k < 5, k ≠ i → b' k - b k = 0 := fun k hk hki => sub_eq_zero.2 (hsame k hk hki)
  refine sub_eq_zero.1 ?_
  -- the four other differences are 0, and `hdiff` leaves that of byte `i`
  interval_cases i <;> simpa [hzero, eq_comm] using hdiff

/-- Settles O45: the flipped bit changes one of the five bytes, so the checksum test fails. -/
theorem singleBitCorruptionIsRejected : Obligations.SingleBitCorruptionIsRejected := by
  refine ⟨fun ss ss' profile bitph thr f j hok hlen hj hflip => decodeFrame_of_ne_checksum hlen fun hsum => ?_,
    by decide, by decide⟩
  have hother : ∀ k < 5, k ≠ j / 8 → frameByte (frameBit bitph thr ss') k = frameByte (frameBit bitph thr ss) k :=
    fun k hk hkj => gathered_eq_iff.2 fun i hi => (hflip _ (by omega)).trans (if_neg (by omega))
  have hbyte := byte_eq_of_checksum (by omega) ((checksumField_eq_iff _).1 (checksumField_of_decodeFrame_ok hok))
    ((checksumField_eq_iff _).1 hsum) hother
  have hbit := gathered_eq_iff.1 hbyte (j % 8) (by omega)
  rw [show 8 * (j / 8) + j % 8 = j by omega, hflip j hj, if_pos rfl] at hbit
  exact Bool.not_ne_self _ hbit

end Sys2Proof.Machine
end

section
/-! The retry machine (R221, R222, R225, R227): what the end of an attempt decides, and how long a READ waits for its
next attempt. -/

namespace Sys2Proof.Machine

/-! ## The end of an attempt (R221) -/

/-- R26, R227: a failed attempt's code goes to the field of the attempt's own number. -/
theorem AttLog.record_eq (a : AttLog) {n : BitVec 2} (hn : n ≠ 0) (c : BitVec 4) : a.record n c =
    ⟨if n = 1 then c else a.a1, if n = 2 then c else a.a2, if n = 3 then c else a.a3⟩ := by
  obtain rfl | rfl | rfl : n = 1 ∨ n = 2 ∨ n = 3 := by revert n; decide
  all_goals rfl

/-- R26, R240: the code as ATTLOG holds it. -/
theorem ErrCode.field_eq (c : ErrCode) : c.field = 0#1 ++ c.code := by cases c <;> rfl

section AttemptEnd

variable {code : ErrCode} {x : Engine} (hcode : code ≠ .none)

include hcode

/-- R221, R225: a TRANSACT completes with the failed attempt's code. -/
theorem attemptEnd_of_transact (hmode : x.mode = .transact) : attemptEnd code x = { x with
    attlog := x.attlog.record x.attempt code.field, phase := .idle, busy := false, done := true, err := code
    trace := x.trace ++ [.attEnd x.attempt code, .cmdDone code] } := by
  simp [attemptEnd, hcode, hmode, finish, emit]

/-- R221: a READ waits after a failed attempt that is not its last. -/
theorem attemptEnd_of_read (hmode : x.mode = .read) (hlast : x.attempt ≠ 3) : attemptEnd code x = { x with
    attlog := x.attlog.record x.attempt code.field, phase := .retryWait, cnt := 0
    trace := x.trace ++ [.attEnd x.attempt code] } := by
  have hlt : x.attempt.toNat < 3 := by revert hlast; generalize x.attempt = n; revert n; decide
  simp [attemptEnd, hcode, hmode, hlt, emit]

/-- R221, R225: a READ whose last attempt fails completes with TotalFailure. -/
theorem attemptEnd_of_last_read (hmode : x.mode = .read) (hlast : x.attempt = 3) : attemptEnd code x = { x with
    attlog := x.attlog.record x.attempt code.field, phase := .idle, busy := false, done := true, err := .totalFailure
    trace := x.trace ++ [.attEnd 3 code, .cmdDone .totalFailure] } := by
  simp [attemptEnd, hcode, hmode, hlast, finish, emit]

end AttemptEnd

/-- Settles O35: success, a TRANSACT's failure, and a READ's failure before and in its last attempt. -/
theorem attemptEndDecidesRetry : Obligations.AttemptEndDecidesRetry := by
  intro code x
  constructor
  · rintro rfl
    simp [attemptEnd_none, finish, emit]
  · intro hcode hatt log
    have hlog : x.attlog.record x.attempt code.field = log := by
      rw [AttLog.record_eq _ hatt, ErrCode.field_eq]
    rw [← hlog]
    exact ⟨attemptEnd_of_transact hcode, attemptEnd_of_read hcode, attemptEnd_of_last_read hcode⟩

/-! ## The wait for the next attempt (R222) -/

/-- R130, R222: the end of RETRY_WAIT begins the next attempt. -/
theorem Engine.timeUp_of_retryWait {x : Engine} (h : x.phase = .retryWait) : x.timeUp = { x with
    attempt := x.attempt + 1, resHum := 0, resTemp := 0, resRaw := 0, resCsum := 0, valid := false, tneg := false
    gpio := Gpio.inputPullUp, phase := .settle, cnt := 0
    trace := x.trace ++ [.attBegin (x.attempt + 1), .gpio Gpio.inputPullUp] } := by
  simp [timeUp, h, beginAttempt, clearResults, driveGpio, emit]

/-- R221: the end of an attempt enters RETRY_WAIT with nothing counted. -/
theorem attemptEnd_cnt (code : ErrCode) (x : Engine) (h : (attemptEnd code x).phase = .retryWait) :
    (attemptEnd code x).cnt = 0 := by
  obtain ⟨a, c, hout⟩ | ⟨a, -, -, -, hout⟩ := attemptEnd_outcome code x
  · rw [hout] at h
    exact absurd h nofun
  · rw [hout]

/-- R165: so does the end of a capture window, which ends the attempt. -/
theorem captureExit_cnt (kind : ExitKind) (x : Engine) (b : CapBuf) (h : (captureExit kind x b).phase = .retryWait) :
    (captureExit kind x b).cnt = 0 := by
  cases kind with
  | complete => rw [captureExit_complete] at h ⊢; exact attemptEnd_cnt _ _ h
  | timeout => rw [captureExit_timeout] at h ⊢; exact attemptEnd_cnt _ _ h

/-- R222: a tick enters RETRY_WAIT only with the end of an attempt, and so with nothing counted. -/
theorem tickUnit_enters_retryWait (depth : Nat) (line : Bool) {x : Engine} (b : CapBuf) (hx : x.phase ≠ .retryWait) :
    (tickUnit depth line x b).1.phase = .retryWait → (tickUnit depth line x b).1.cnt = 0 := by
  apply tickUnit_cases (Q := fun y => y.phase = .retryWait → y.cnt = 0)
  case idle => exact fun _ h => absurd h hx
  case count => exact fun _ _ _ h => absurd h hx
  case settled | started | released => exact fun _ _ => rfl
  case answered => exact fun _ => nofun
  case silent => exact fun _ => attemptEnd_cnt _ _
  case capturing =>
    obtain ⟨_, _, _, _, _, _, hframe⟩ := captureTick_frame depth line x b
    rw [hframe]
    exact fun _ _ _ h => absurd h hx
  case exit => exact fun _ _ _ => captureExit_cnt _ _ _
  case retry => exact fun h => absurd h hx

/-- R108. -/
theorem configWrite_phase (r : RwReg) (d : Word) (x : Engine) : (configWrite r d x).phase = x.phase := by
  unfold configWrite
  split
  · rfl
  · cases r <;> rfl

/-- R110. -/
theorem appendSample_phase (e : EngineId) (d : Word) (s : State) :
    ((appendSample e d s).eng e).phase = (s.eng e).phase := by
  unfold appendSample
  dsimp only
  split
  · rw [State.eng_modEng_same]
    rfl
  · rfl

/-- R106, R107: READ and TRANSACT begin attempt 1, or complete at once. -/
theorem startEffect_phase (m : Mode) (x : Engine) :
    (startEffect m x).phase = .idle ∨ (startEffect m x).phase = .settle := by
  unfold startEffect
  dsimp only
  split
  · exact .inr rfl
  · exact .inl rfl

/-- R102-R105: the other commands complete at once. -/
theorem commandEffect_phase (e : EngineId) (s : State) :
    ∀ effect ∈ [decodeEffect e, configEffect e, unconfigEffect e, capclrEffect e],
      ((effect s).eng e).phase = .idle := by
  simp only [List.forall_mem_cons, List.not_mem_nil, false_imp_iff, implies_true, and_true]
  refine ⟨?_, ?_, ?_, ?_⟩
  · unfold decodeEffect
    dsimp only
    split <;> rw [State.eng_modEng_same] <;> rfl
  · unfold configEffect
    dsimp only
    split <;> rw [State.eng_modEng_same] <;> rfl
  · unfold unconfigEffect
    rw [State.eng_modEng_same]
    rfl
  · unfold capclrEffect
    dsimp only
    split <;> rw [State.eng_modEng_same] <;> rfl

/-- R66: an operation moves no engine to a phase other than IDLE and SETTLE. -/
theorem exec_phase {i : Instr} {s t : State} (h : exec i s = .next t) (e : EngineId) :
    (t.eng e).phase = (s.eng e).phase ∨ (t.eng e).phase = .idle ∨ (t.eng e).phase = .settle := by
  obtain ⟨f, hf⟩ := engineOf_of_exec h
  by_cases hef : e = f
  case neg =>
    obtain ⟨v, -, -, -, -, -, hother⟩ := sameOutside_exec hf h
    exact .inl (congrArg Engine.phase (hother e hef))
  subst hef
  cases hbusy : (s.eng e).busy with
  | true =>
    obtain ⟨v, ce, we, dn, rfl⟩ := exec_of_busy hf hbusy h
    rw [State.eng_setEng_same]
    exact .inl rfl
  | false =>
    have hmod {g : Engine → Engine} (hg : ∀ x, (g x).phase = x.phase) :
        ((s.modEng e g).eng e).phase = (s.eng e).phase := by
      rw [State.eng_modEng_same, hg]
    have heffect := commandEffect_phase e (s.modEng e clearDoneErr)
    obtain rfl | ⟨v, rfl⟩ | ⟨f, hf', ht⟩ := exec_next_cases h
    · exact .inl rfl
    · exact .inl rfl
    · obtain rfl : e = f := Option.some.inj (hf.symm.trans hf')
      obtain rfl | ⟨r, d, rfl⟩ | ⟨d, rfl⟩ | ⟨d, rfl⟩ | ⟨m, rfl⟩ | rfl | rfl | rfl | rfl := ht
      · exact .inl (hmod fun _ => rfl)
      · exact .inl (hmod (configWrite_phase r d))
      · exact .inl (hmod fun _ => rfl)
      · exact .inl (appendSample_phase e d s)
      · rw [acceptCommand_idle _ hbusy, State.eng_modEng_same]
        exact .inr (startEffect_phase ..)
      all_goals
        rw [acceptCommand_idle _ hbusy]
        exact .inr (.inl (heffect _ (by simp)))

/-- Settles O34: RETRY_WAIT counts its ticks like the other timed phases, and only the end of an attempt enters it. -/
theorem retryWaitBeginsTheNextAttempt : Obligations.RetryWaitBeginsTheNextAttempt := by
  refine ⟨fun s pins e hphase => ?_, fun depth line x b => tickUnit_enters_retryWait depth line b,
    fun i s t e hphase h => ?_, ?_, fun p e => ?_⟩
  · rw [tickEngine_of_cntLimit (limit := (s.eng e).tRetry) (by rw [Engine.cntLimit, hphase]) (by simp [hphase]),
      Engine.timeUp_of_retryWait (x := countTick (s.eng e)) hphase]
    rfl
  · obtain hsame | hidle | hsettle := exec_phase h e
    · rwa [hsame]
    · simp [hidle]
    · simp [hsettle]
  · intro s e levels x W u hrst he hphase hcnt
    have hlim : x.cntLimit = some x.tRetry := by rw [Engine.cntLimit, hphase]
    have hline : x.phase = .respWait → ∀ pins ∈ levels, lineOf pins x = false := by simp [hphase]
    refine ⟨tickRun_counts hrst he hlim hcnt hline, fun hlen => ?_⟩
    have hu : u = (x.countedTo W).timeUp := tickRun_timeUp hrst he hlim hcnt hline hlen
    rw [hu, Engine.timeUp_of_retryWait (x := x.countedTo W) hphase]
    rfl
  · simp [State.resetWith, State.eng, Engine.reset]

end Sys2Proof.Machine
end

section
/-! A READ on a low line (R224, R228): the READ and the ticks after it as one run of steps, and its three attempts and
two waits put together from the phases that count ticks. -/

namespace Sys2Proof.Machine

/-! ## Runs of steps -/

theorem RunsTo.zero (s : State) : RunsTo 0 s s := rfl

theorem RunsTo.succ {k : Nat} {s t u : State} (hstep : step s = .next u) (h : RunsTo k u t) : RunsTo (1 + k) s t := by
  have hcore : Sys2Proof.core.step s = .next u := hstep
  simpa [RunsTo, Host.Core.run, hcore, Nat.add_comm 1 k] using h

theorem tickEngine_setInputs (pins : BitVec 64) (e : EngineId) (s : State) (rest : List Input) :
    tickEngine pins e { s with inputs := rest } = { tickEngine pins e s with inputs := rest } := rfl

theorem tickEngines_setInputs (pins : BitVec 64) (s : State) (rest : List Input) :
    tickEngines pins { s with inputs := rest } = { tickEngines pins s with inputs := rest } := by
  unfold tickEngines
  generalize engineIds = ids
  induction ids generalizing s with
  | nil => rfl
  | cons e ids ih =>
    rw [List.foldl_cons, List.foldl_cons, ← ih]
    by_cases he : engineExists s.params e = true
    · rw [if_pos he, if_pos he, tickEngine_setInputs]
    · rw [if_neg he, if_neg he]

/-- R169: no tick looks at what arrives later. -/
theorem tickPulse_setInputs (pins : BitVec 64) (s : State) (rest : List Input) :
    tickPulse pins { s with inputs := rest } = { tickPulse pins s with inputs := rest } := by
  unfold tickPulse
  dsimp only
  split
  · rfl
  · exact tickEngines_setInputs pins { s with now := s.now + 1 } rest

/-- R8, R67: the steps that take the ticks at the head of the arrivals are those ticks, one after another. -/
theorem runsTo_ticks (levels : List (BitVec 64)) (s : State) (rest : List Input) :
    RunsTo levels.length { s with inputs := levels.map .tick ++ rest } { tickRun levels s with inputs := rest } := by
  induction levels generalizing s with
  | nil => exact RunsTo.zero _
  | cons pins levels ih =>
    have hstep : step { s with inputs := (pins :: levels).map .tick ++ rest } =
        .next { tickPulse pins s with inputs := levels.map .tick ++ rest } := by
      rw [step_of_tick (pins := pins) (rest := levels.map .tick ++ rest) (.inl rfl), ← tickPulse_setInputs]
    rw [List.length_cons, Nat.add_comm, tickRun_cons]
    exact RunsTo.succ hstep (ih _)

/-! ## Ticks with a low line -/

/-- An engine that is `x`, on a low line and with no access between the ticks, is BUSY for fewer than `k` ticks and is
`y` after the `k`-th. -/
def LowRun (k : Nat) (x y : Engine) : Prop :=
  ∀ (s : State) (e : EngineId) (levels : List (BitVec 64)), s.rst = false → engineExists s.params e = true →
    s.eng e = x → (∀ pins ∈ levels, pins.getLsbD x.pin.toNat = false) →
    (levels.length < k → ((tickRun levels s).eng e).busy = true) ∧
    (levels.length = k → (tickRun levels s).eng e = y)

theorem tickRun_claim (levels : List (BitVec 64)) (s : State) (e : EngineId) :
    ((tickRun levels s).eng e).claim = (s.eng e).claim := by
  induction levels generalizing s with
  | nil => rfl
  | cons pins levels ih => rw [tickRun_cons, ih, (sameClaims_tickPulse pins s).2]

theorem LowRun.trans {k l : Nat} {x y z : Engine} (hxy : LowRun k x y) (hyz : LowRun l y z) : LowRun (k + l) x z := by
  intro s e levels hrst he hx hlow
  obtain hlen | hlen := Nat.lt_or_ge levels.length k
  · exact ⟨fun _ => (hxy s e levels hrst he hx hlow).1 hlen, fun h => by omega⟩
  · have hy : (tickRun (levels.take k) s).eng e = y :=
      (hxy s e _ hrst he hx fun q hq => hlow q (List.mem_of_mem_take hq)).2 (List.length_take_of_le hlen)
    have hpin : y.pin = x.pin := by
      rw [← hy, ← hx]
      exact (Engine.claim_eq_iff.1 (tickRun_claim ..)).2.1
    have hrun := hyz (tickRun (levels.take k) s) e (levels.drop k) (by rwa [tickRun_rst]) (by rwa [tickRun_params]) hy
      fun q hq => hpin ▸ hlow q (List.mem_of_mem_drop hq)
    rw [tickRun_drop_take, List.length_drop] at hrun
    exact ⟨fun h => hrun.1 (by omega), fun h => hrun.2 (by omega)⟩

/-- R136: a timed phase of a BUSY engine. -/
theorem lowRun_of_cntLimit {x : Engine} {limit : Word} (hbusy : x.busy = true) (hlim : x.cntLimit = some limit)
    (hcnt : x.cnt = 0) : LowRun (max1 limit) x (x.countedTo (max1 limit)).timeUp := by
  rintro s e levels hrst he rfl hlow
  refine ⟨fun hlen => ?_, tickRun_timeUp hrst he hlim hcnt fun _ => hlow⟩
  rw [tickRun_counts hrst he hlim hcnt (fun _ => hlow) hlen]
  exact hbusy

/-- R135: the ticks of an attempt that ends with NoResponse. -/
def Engine.silentTicks (x : Engine) : Nat := max1 x.tSettle + max1 x.tLow + max1 x.tRel + max1 x.tResp

/-- R131-R134: an attempt of a BUSY engine. -/
theorem lowRun_attempt {x : Engine} (hbusy : x.busy = true) (hphase : x.phase = .settle) (hcnt : x.cnt = 0) :
    LowRun x.silentTicks x (attemptEnd .noResponse (x.inRespWait.countedTo (max1 x.tResp))) := by
  have hsettle : LowRun (max1 x.tSettle) x x.inStartLow := by
    have h := lowRun_of_cntLimit (limit := x.tSettle) hbusy (by rw [Engine.cntLimit, hphase]) hcnt
    rwa [Engine.timeUp_of_settle (x := x.countedTo _) hphase] at h
  have hstart : LowRun (max1 x.tLow) x.inStartLow x.inRelWait := by
    have h := lowRun_of_cntLimit (x := x.inStartLow) (limit := x.tLow) hbusy rfl rfl
    rw [Engine.timeUp_of_startLow rfl] at h
    simpa [Engine.inRelWait, Engine.inStartLow, Engine.countedTo] using h
  have hrel : LowRun (max1 x.tRel) x.inRelWait x.inRespWait := by
    have h := lowRun_of_cntLimit (x := x.inRelWait) (limit := x.tRel) hbusy rfl rfl
    rwa [Engine.timeUp_of_relWait rfl] at h
  have hresp := lowRun_of_cntLimit (x := x.inRespWait) (limit := x.tResp) hbusy rfl rfl
  rw [Engine.timeUp_of_respWait rfl] at hresp
  exact ((hsettle.trans hstart).trans hrel).trans hresp

/-! ## The READ (R221, R224, R228) -/

/-- R106, R130, R222: the engine of a READ that was issued as `x`, as attempt `n` begins, with `log` in ATTLOG and the
trace `tr` of what went before. -/
def Engine.readAttempt (x : Engine) (n : BitVec 2) (log : AttLog) (tr : List Event) : Engine :=
  { clearResults (clearDoneErr x) with
    busy := true, mode := .read, attempt := n, attlog := log, gpio := Gpio.inputPullUp, phase := .settle, cnt := 0
    trace := tr ++ [.attBegin n, .gpio Gpio.inputPullUp] }

/-- R130-R134: the events of an attempt that ends with NoResponse. -/
def silentEvents (n : BitVec 2) : List Event :=
  [.attBegin n, .gpio Gpio.inputPullUp, .gpio Gpio.driveLow, .gpio Gpio.inputPullUp, .attEnd n .noResponse]

/-- R221, R222, R227: that engine as the wait after a failed attempt `n` begins. -/
def Engine.readWaiting (x : Engine) (n : BitVec 2) (log : AttLog) (tr : List Event) : Engine :=
  { x.readAttempt n (log.record n ErrCode.noResponse.field) tr with
    phase := .retryWait, trace := tr ++ silentEvents n }

/-- R221, R225, R227: that engine after a failed third attempt. -/
def Engine.readFailed (x : Engine) (log : AttLog) (tr : List Event) : Engine :=
  { x.readAttempt 3 (log.record 3 ErrCode.noResponse.field) tr with
    busy := false, done := true, err := .totalFailure, phase := .idle, cnt := BitVec.ofNat 32 (max1 x.tResp)
    trace := tr ++ silentEvents 3 ++ [.cmdDone .totalFailure] }

section ReadAttempt

variable (x : Engine) (log : AttLog) (tr : List Event)

theorem attemptEnd_readAttempt {n : BitVec 2} (hlast : n ≠ 3) (k : Nat) :
    attemptEnd .noResponse ((x.readAttempt n log tr).inRespWait.countedTo k) = x.readWaiting n log tr := by
  rw [attemptEnd_of_read (by decide) rfl hlast]
  simp [Engine.readWaiting, Engine.readAttempt, Engine.inRespWait, Engine.inRelWait, Engine.countedTo, silentEvents]

theorem attemptEnd_readAttempt_last :
    attemptEnd .noResponse ((x.readAttempt 3 log tr).inRespWait.countedTo (max1 x.tResp)) = x.readFailed log tr := by
  rw [attemptEnd_of_last_read (by decide) rfl rfl]
  simp [Engine.readFailed, Engine.readAttempt, Engine.inRespWait, Engine.inRelWait, Engine.countedTo, silentEvents]

/-- R222: the end of the wait begins the next attempt. -/
theorem timeUp_readWaiting (n : BitVec 2) (k : Nat) : ((x.readWaiting n log tr).countedTo k).timeUp =
    x.readAttempt (n + 1) (log.record n ErrCode.noResponse.field) (tr ++ silentEvents n) :=
  Engine.timeUp_of_retryWait rfl

/-- R221, R222: an attempt before the third, and the wait after it. -/
theorem lowRun_retry {n : BitVec 2} (hlast : n ≠ 3) : LowRun (x.silentTicks + max1 x.tRetry) (x.readAttempt n log tr)
    (x.readAttempt (n + 1) (log.record n ErrCode.noResponse.field) (tr ++ silentEvents n)) := by
  have hattempt := lowRun_attempt (x := x.readAttempt n log tr) rfl rfl rfl
  have hwait := lowRun_of_cntLimit (x := x.readWaiting n log tr) (limit := x.tRetry) rfl rfl rfl
  rw [attemptEnd_readAttempt x log tr hlast] at hattempt
  rw [timeUp_readWaiting] at hwait
  exact hattempt.trans hwait

/-- R221, R225: the third attempt. -/
theorem lowRun_lastAttempt : LowRun x.silentTicks (x.readAttempt 3 log tr) (x.readFailed log tr) :=
  attemptEnd_readAttempt_last x log tr ▸ lowRun_attempt (x := x.readAttempt 3 log tr) rfl rfl rfl

end ReadAttempt

/-- R106: the engine after a READ that it accepted as `x`, with ATTLOG cleared and attempt 1 begun. -/
def Engine.readStarted (x : Engine) : Engine := x.readAttempt 1 ⟨0, 0, 0⟩ x.trace

theorem startEffect_read {x : Engine} (hcfgd : x.cfgd = true) :
    startEffect .read (clearDoneErr x) = x.readStarted := by
  rw [startEffect_of_cfgd (x := clearDoneErr x) hcfgd]
  simp [Engine.readStarted, Engine.readAttempt, beginAttempt, driveGpio, emit, clearResults, clearDoneErr]

/-- R224: three attempts and two waits. -/
theorem lowRun_read (x : Engine) : LowRun (3 * x.silentTicks + 2 * max1 x.tRetry) x.readStarted
    (x.readFailed ⟨2, 2, 0⟩ (x.trace ++ silentEvents 1 ++ silentEvents 2)) := by
  have hticks : 3 * x.silentTicks + 2 * max1 x.tRetry =
      x.silentTicks + max1 x.tRetry + (x.silentTicks + max1 x.tRetry) + x.silentTicks := by omega
  rw [hticks]
  exact ((lowRun_retry x _ _ (n := 1) (by decide)).trans (lowRun_retry x _ _ (n := 2) (by decide))).trans
    (lowRun_lastAttempt x _ _)

section Read

variable {s : State} {e : EngineId} (hrst : s.rst = false) (he : engineExists s.params e = true)
  (hidle : (s.eng e).busy = false) (hcfgd : (s.eng e).cfgd = true)

include hrst he hidle hcfgd

/-- R66, R86: the step that takes a READ. -/
theorem step_read {rest : List Input} (hin : s.inputs = .op (.cmd e 1) :: rest) :
    step s = .next { s.setEng e (s.eng e).readStarted with inputs := rest } := by
  rw [← startEffect_read hcfgd]
  exact (step_of_decode_ok hin hrst (decode_cmd he 1)).trans
    (exec_start (s := { s with inputs := rest }) hidle (.read e, .read) (by simp))

/-- R66, R67: a READ and then the first `n` of the ticks that arrive after it. -/
theorem runsTo_read {levels : List (BitVec 64)} (hin : s.inputs = .op (.cmd e 1) :: levels.map .tick) {n : Nat}
    (hn : n ≤ levels.length) :
    RunsTo (1 + n) s { tickRun (levels.take n) (s.setEng e (s.eng e).readStarted) with
      inputs := (levels.drop n).map .tick } := by
  have hticks := runsTo_ticks (levels.take n) (s.setEng e (s.eng e).readStarted) ((levels.drop n).map .tick)
  rw [← List.map_append, List.take_append_drop, List.length_take_of_le hn] at hticks
  exact RunsTo.succ (step_read hrst he hidle hcfgd hin) hticks

end Read

/-- Settles O47: the READ begins attempt 1, from which the run of three attempts and two waits is known. -/
theorem readOnALowLineFailsAfterThreeAttempts : Obligations.ReadOnALowLineFailsAfterThreeAttempts := by
  intro s e levels x D W hrst he hidle hcfgd hlow hin
  have hread {n : Nat} (hn : n ≤ levels.length) : ∃ u, RunsTo (1 + n) s u ∧
      (n < 3 * D + 2 * W → (u.eng e).busy = true) ∧
      (n = 3 * D + 2 * W → u.eng e = x.readFailed ⟨2, 2, 0⟩ (x.trace ++ silentEvents 1 ++ silentEvents 2)) := by
    have hrun := lowRun_read x (s.setEng e x.readStarted) e (levels.take n) hrst he (State.eng_setEng_same ..)
      fun q hq => hlow q (List.mem_of_mem_take hq)
    rw [List.length_take_of_le hn] at hrun
    exact ⟨_, runsTo_read hrst he hidle hcfgd hin hn, hrun⟩
  refine ⟨fun n hlt hn => ?_, fun hlen => ?_⟩
  · obtain ⟨u, hu, hbusy, -⟩ := hread hn
    exact ⟨u, hu, hbusy hlt⟩
  · obtain ⟨u, hu, -, hend⟩ := hread le_rfl
    refine ⟨u, hu, ?_⟩
    rw [hend hlen]
    refine ⟨rfl, rfl, rfl, rfl, rfl, rfl, rfl, rfl, rfl, ?_⟩
    simp [Engine.readFailed, silentEvents, Gpio.inputPullUp, Gpio.driveLow]

end Sys2Proof.Machine
end

section
/-! The exceptions (60_exceptions.md): instances that stand apart from each other, in one tick (R245) and under an
operation of one of them (R251, R253), and the bus error of an illegal access (R243). -/

namespace Sys2Proof

/-- R61: an illegal access to the block decodes to the operation that stands for it. -/
theorem decode_bus_of_illegal {p : Params} {a : Access} (hin : addressInBlock p a.addr = true)
    (hill : accessIllegal a = true) : decode p (.bus a) = .ok (.subwordOrMisaligned a) := by
  simp [decode, decodeBus, hin, hill]

end Sys2Proof

namespace Sys2Proof.Machine

/-! ## Which engines have taken their tick step determines engines and buffers (R245) -/

section TickedTwice

variable {pins : BitVec 64} {done : Set EngineId} {s t u : State}

theorem TickedIn.eng_unique (ht : TickedIn pins done s t) (hu : TickedIn pins done s u) (e : EngineId) :
    t.eng e = u.eng e := by
  by_cases he : e ∈ done
  · rw [ht.eng_mem e he, hu.eng_mem e he]
  · rw [ht.eng_notMem e he, hu.eng_notMem e he]

/-- R49, R50: a buffer has moved with the one engine that owns its channel, if that engine has stepped. -/
theorem TickedIn.buf_unique (ht : TickedIn pins done s t) (hu : TickedIn pins done s u) (hown : OwnershipExact s)
    (c : BitVec 3) : t.buf c = u.buf c := by
  by_cases hc : ∃ e ∈ done, s.chanOwnerOf c = some e
  · obtain ⟨e, he, howner⟩ := hc
    obtain ⟨hcfgd, rfl⟩ := (hown.1 e c).1 howner
    rw [ht.buf_mem e he hcfgd, hu.buf_mem e he hcfgd]
  · have hfree : ∀ e, s.chanOwnerOf c = some e → e ∉ done := fun e howner he => hc ⟨e, he, howner⟩
    rw [ht.buf_notMem c hfree, hu.buf_notMem c hfree]

end TickedTwice

/-- Two engines' tick steps, one after the other, are the step of each from the state before both. -/
theorem tickedIn_pair (pins : BitVec 64) {s : State} {e f : EngineId} (hef : e ≠ f) (hown : OwnershipExact s)
    (hph : ∀ g, (s.eng g).phaseOk) : TickedIn pins {e, f} s (tickEngine pins e (tickEngine pins f s)) := by
  have hf : TickedIn pins {f} s (tickEngine pins f s) := by
    simpa using (TickedIn.refl pins s).insert_tickEngine hown (hph f) (Set.notMem_empty f)
  exact hf.insert_tickEngine hown (hph e) hef

/-- Settles O8: in either order the same two engines have stepped, which determines every engine and buffer; a tick step
writes nothing else. -/
theorem engineTicksCommute : Obligations.EngineTicksCommute := by
  intro s pins e f hef hown hph
  have hfirst : TickedIn pins {e, f} s (tickEngine pins e (tickEngine pins f s)) := tickedIn_pair pins hef hown hph
  have hsecond : TickedIn pins {e, f} s (tickEngine pins f (tickEngine pins e s)) :=
    Set.pair_comm f e ▸ tickedIn_pair pins hef.symm hown hph
  exact State.ext_parts rfl (hfirst.eng_unique hsecond) (hfirst.buf_unique hsecond hown) (fun _ => rfl) (fun _ => rfl)
    rfl rfl rfl rfl

/-! ## Operations of one engine (R251, R253) -/

/-- Settles O52: an operation stays within its engine, whose buffers are not another claim's, and it keeps the owner
tables exact. -/
theorem otherInstancesAreUntouched : Obligations.OtherInstancesAreUntouched := by
  intro i s t e f he hfe h
  obtain ⟨v, -, -, -, -, -, hother⟩ := sameOutside_exec he h
  have heng : t.eng f = s.eng f := hother f hfe
  refine ⟨heng, fun hown hcfgd => ?_⟩
  obtain ⟨hchan, hpin⟩ : OwnershipExact t := hown.exec h
  exact ⟨writesOwnBufs_exec he h _ (hown.not_mayWriteBuf hfe hcfgd),
    (hchan f _).2 ⟨heng ▸ hcfgd, congrArg Engine.chan heng⟩, (hpin f _).2 ⟨heng ▸ hcfgd, congrArg Engine.pin heng⟩⟩

/-! ## The bus error (R243) -/

/-- Settles O9: the illegal access means the fault, and a step with `rst` released runs what its arrival decodes to. -/
theorem illegalAccessFaults : Obligations.IllegalAccessFaults :=
  ⟨fun _ _ => rfl, fun _ _ _ hr hin hblock hill =>
    step_of_decode_ok hin hr (decode_bus_of_illegal hblock (accessIllegal_iff.2 hill))⟩

end Sys2Proof.Machine
end

section
/-! Reset (70_reset_and_hazards.md): the assertion of `rst` and what it holds off (R270), and the reset state (R271),
whose registers read as the table says and which meets every invariant that the steps keep. -/

namespace Sys2Proof.Machine

/-! ## The reset input (R270) -/

/-- R270: a step takes the new level of the reset input at the head of the arrivals. -/
theorem step_of_rst_level {s : State} {level : Bool} {rest : List Input} (hin : s.inputs = .rst level :: rest) :
    step s = .next (resetInput level { s with inputs := rest }) := by
  simp [step, nextInput, hin]

/-- R270: under `rst`, a tick pulse is counted and no engine steps. -/
theorem tickPulse_of_asserted (pins : BitVec 64) {s : State} (hr : s.rst = true) :
    tickPulse pins s = { s with now := s.now + 1 } := by
  simp [tickPulse, hr]

/-- R270: under `rst`, a step that takes an operation in the block has no effect, but that a read returns 0. -/
theorem step_of_asserted {s : State} {c : Code} {rest : List Input} (hr : s.rst = true)
    (hin : s.inputs = .op c :: rest) (hblock : codeInBlock s.params c = true) :
    step s = .next { s with inputs := rest, rdata := if codeIsRead c then 0 else s.rdata } := by
  rw [step_of_inert hin (takeCode_inert (s := { s with inputs := rest }) hr hblock)]
  cases codeIsRead c <;> rfl

/-- Settles O11: the two levels of the reset input, and what `rst` makes of a tick and of an operation. -/
theorem resetAbandonsAndHolds : Obligations.ResetAbandonsAndHolds := by
  refine ⟨fun s rest hin => step_of_rst_level hin, fun s rest hin => step_of_rst_level hin,
    fun s pins rest hr hin => ?_, fun s a rest hr hin hblock => ?_,
    fun s e w rest hr hin hexists => step_of_asserted hr hin hexists⟩
  · rw [step_of_tick hin, tickPulse_of_asserted pins (s := { s with inputs := rest }) hr]
  · simpa [codeIsRead] using step_of_asserted hr hin hblock

/-! ## The reset values (R271) -/

/-- R271: every CAP_DATA slot reads 0: an existing one because no channel is claimed, another because its offset is
reserved (R63). -/
theorem exec_regRead_capData_resetWith (p : Params) (e : EngineId) (k : Fin 64) :
    exec (.regRead e (BitVec.ofNat 9 (0x100 + 4 * k.val))) (State.resetWith p) =
      .next { State.resetWith p with rdata := 0 } := by
  by_cases hk : k.val < p.capDepth
  · obtain ⟨-, hslot⟩ := readsReturnTheRegisters e (State.resetWith p)
    simpa [Engine.reset] using hslot k hk
  · have htoNat : (BitVec.ofNat 9 (0x100 + 4 * k.val)).toNat = 0x100 + 4 * k.val :=
      (BitVec.toNat_ofNat _ 9).trans (Nat.mod_eq_of_lt (Reg.offset_lt (.capData k)).1)
    have hreserved : offsetReserved p (BitVec.ofNat 9 (0x100 + 4 * k.val)) = true := by
      simp only [offsetReserved, htoNat, Bool.and_eq_true, decide_eq_true_eq]
      omega
    exact exec_regRead_reserved (s := State.resetWith p) e hreserved

/-- Settles O12: a read returns the register (R111), and each register of the reset state holds its row of R271. -/
theorem resetValues : Obligations.ResetValues := by
  intro p e
  refine ⟨?_, exec_regRead_capData_resetWith p e, ?_, fun c => ?_, State.pinOwnerOf_resetWith p⟩
  · obtain ⟨hfixed, -⟩ := readsReturnTheRegisters e (State.resetWith p)
    simp only [State.eng_resetWith, State.buf_resetWith] at hfixed
    exact hfixed
  · rw [State.eng_resetWith]
    decide
  · rw [State.buf_resetWith]
    exact ⟨rfl, rfl, fun k => by simp [CapBuf.reset], State.chanOwnerOf_resetWith p c⟩

/-! ## The invariants -/

/-- R271: after reset every engine is the reset engine. -/
theorem forall_eng_resetWith {P : Engine → Prop} (h : P Engine.reset) (p : Params) :
    ∀ e, P ((State.resetWith p).eng e) := fun e => by
  rwa [State.eng_resetWith]

/-- R50, R271: after reset nothing is claimed and no channel or pin has an owner. -/
theorem ownershipExact_resetWith (p : Params) : OwnershipExact (State.resetWith p) :=
  ⟨fun e c => by simp [Engine.reset], fun e q => by simp [Engine.reset]⟩

/-- R49, R271: after reset every buffer is empty. -/
theorem buffersBounded_resetWith (p : Params) : BuffersBounded (State.resetWith p) := fun c => by
  simp [CapBuf.reset]

/-- R21, R271: the reset values have no reserved bit. -/
theorem reservedBitsZero_reset : Engine.reset.reservedBitsZero := fun r => by
  cases r <;> decide

/-- R51, R271: after reset an engine is IDLE and drives nothing. -/
theorem sequencerOk_reset : Engine.reset.sequencerOk := (Engine.sequencerOk_idle_iff rfl).2 ⟨rfl, rfl, rfl⟩

/-- R114, R271: after reset there is no reading. -/
theorem resultsInv_reset : Engine.reset.resultsInv :=
  (Engine.resultsInv_idle_iff rfl).2 ⟨rfl, (noReading_clearResults Engine.reset).readingOk⟩

/-- R270: the fresh trace has no window and no attempt open. -/
theorem traceInv_reset : Engine.reset.traceInv := (Engine.traceInv_idle_iff rfl).2 ⟨rfl, rfl, rfl⟩

/-- Settles O13: the shared state is empty, and every engine is the reset engine, which meets the invariants of one. -/
theorem resetMeetsTheInvariants : Obligations.ResetMeetsTheInvariants := fun p =>
  ⟨ownershipExact_resetWith p, buffersBounded_resetWith p, forall_eng_resetWith reservedBitsZero_reset p,
    forall_eng_resetWith sequencerOk_reset p, forall_eng_resetWith resultsInv_reset p,
    forall_eng_resetWith traceInv_reset p⟩

end Sys2Proof.Machine
end
